-- ==== Sys2Proof/Word.lean ====
section
/-! DEFINITION. The word types of the block (spec/00_scope.md R9, spec/10_state.md R14). -/

namespace Sys2Proof

/-- One 32-bit stimulus word (R36). -/
abbrev Word := BitVec 32

/-- A 16-bit register or operand: "values are 16-bit words unless noted" (R14). -/
abbrev Reg := BitVec 16

/-- An 8-bit value: a transport byte, the status byte, a direction mask (R14, R39). -/
abbrev Byte := BitVec 8

/-- A device name, a token or a prefix (R8, R98): its characters in order. -/
abbrev Name := List Char

end Sys2Proof
end

