-- ==== Sys2Proof/Config.lean ====
section
/-! DEFINITION. What an implementation fixes: the constants the spec gives, the OPEN parameters (spec/00_scope.md R7)
as a record with the conditions the spec states on them, the session configuration (R8), the types of the transport
contract (spec/45_session.md R94), and the free values: opaque constants that nothing in Lean can evaluate. -/

namespace Sys2Proof

/-- The answer of an oracle call that may return `Failure` (R94). -/
inductive Answer (α : Type) where
  /-- `Failure`. -/
  | failure
  /-- An answer of the call's type. -/
  | value (a : α)
deriving DecidableEq, Repr, Inhabited

/-- The answer of `T.open` (R94): `ok`, `failed`, or the Failure every call may return. -/
inductive OpenAnswer where
  | ok
  | failed
  | failure
deriving DecidableEq, Repr, Inhabited

/-- Input line levels, true = asserted (R13, R84). -/
structure LineLevels where
  dsr : Bool
  cd : Bool
  cts : Bool
  ri : Bool
deriving DecidableEq, Repr, Inhabited

/-- The stop-bit count of the configuration (R8). -/
inductive StopBits where
  | one
  | two
deriving DecidableEq, Repr, Inhabited

/-- The session configuration, given at `OPEN` and constant until `CLOSE` (R8). -/
structure SessionCfg where
  cycleExact : Bool
  safeReceive : Bool
  crlf : Bool
  hwFlow : Bool
  stopBits : StopBits
  direct : Bool
  riOnSel : Bool
  overrunForced : Bool
  extDevForced : Bool
deriving DecidableEq, Repr, Inhabited

/-- The default configuration (spec/70_reset_and_hazards.md R115). -/
def SessionCfg.default : SessionCfg where
  cycleExact := false
  safeReceive := false
  crlf := false
  hwFlow := false
  stopBits := .one
  direct := false
  riOnSel := false
  overrunForced := false
  extDevForced := false

/-- The OPEN parameters of R7. -/
structure Params where
  /-- `BAUD_TABLE` without its sentinel: the end of the list is the sentinel (R49). -/
  baudTable : List Nat
  /-- `LINE_CYCLES`. -/
  lineCycles : Nat
  /-- `PROP_CYCLES`. -/
  propCycles : Nat
  /-- `BREAK_TX_LINES`, at least 1. -/
  breakTxLines : Nat
  /-- `BREAK_RX_LINES`, at least 1. -/
  breakRxLines : Nat
  /-- `RX_QUEUE_CAP`, 0 allowed. -/
  rxQueueCap : Nat
  /-- `NINEBIT_SYNC_BASE`, bit 0 clear. -/
  syncBase : Byte
  /-- `SHM_TOKEN`. -/
  shmToken : Name
  /-- `LOOP_TOKEN`. -/
  loopToken : Name
  /-- `NONE_TOKENS`, which contains the empty name. -/
  noneTokens : List Name
  /-- `RELAY_PREFIX`. -/
  relayPrefix : Name
  /-- `TCP_PREFIX`. -/
  tcpPrefix : Name
  /-- `MIDI_PREFIX`. -/
  midiPrefix : Name
deriving DecidableEq, Repr, Inhabited

/-- `CLOCK_CONSTANT` (R7, source). -/
def Config.clockConstant : Nat := 3546895

/-- `DATA_BITS` (R7, decision D6 of the spec). -/
def Config.dataBits : Nat := 8

/-- `BREAK_DETECT_STEPS` (R7, decision D25 of the spec). -/
def Config.breakDetectSteps : Nat := 1

/-- `OVERRUN_LINES` (R7, source). -/
def Config.overrunLines : Nat := 200

/-- `READ_TIMEOUT` (R7): "no engine rule reads it"; the wait is inside the oracle (R94). -/
def Config.readTimeout : Nat := 1000

/-- Each entry is at most the next: "ascending" (R49 (a)). -/
def Config.ascending : List Nat → Bool
  | [] => true
  | [_] => true
  | a :: b :: rest => decide (a ≤ b) && Config.ascending (b :: rest)

/-- The conditions of R49 on `BAUD_TABLE`: (a) ascending; (b) it has the entries `T[0]` and `T[1]`; (d) 9600 is an
entry, and a real rate; (e) every entry before it is passed at 9612; (f) a period of 0 exhausts it, whence (c).
DEDUCED (log 3): ascending is read as "no entry above the next". -/
def Config.baudTableLegal (table : List Nat) : Bool :=
  Config.ascending table && decide (2 ≤ table.length) && table.tail.contains 9600 &&
    (table.takeWhile (fun t => t != 9600)).all (fun t => decide (t * 100 / 97 < 9612)) &&
    table.all (fun t => decide (t * 100 / 97 < 3546895))

/-- The conditions R7 and R49 state on the OPEN parameters. -/
def Params.legal (p : Params) : Bool :=
  Config.baudTableLegal p.baudTable && decide (1 ≤ p.breakTxLines) && decide (1 ≤ p.breakRxLines) &&
    !p.syncBase.getLsbD 0 && p.noneTokens.contains []

/-- The default baud table of R49 [general knowledge, by the spec's own mark]. -/
def Config.defaultBaudTable : List Nat :=
  [0, 110, 300, 600, 1200, 2400, 4800, 9600, 14400, 19200, 31400, 38400, 57600, 115200, 128000, 256000]

/-- The parameter values of spec/95_test_vectors.md (log 3). That file writes its tokens symbolically; the names here
stand for them. It serves tests, and shows that legal parameters exist. -/
def Config.vectorParams : Params where
  baudTable := Config.defaultBaudTable
  lineCycles := 227
  propCycles := 8
  breakTxLines := 3
  breakRxLines := 4
  rxQueueCap := 2
  syncBase := 0xA0
  shmToken := ['s', 'h', 'm']
  loopToken := ['l', 'o', 'o', 'p']
  noneTokens := [[], ['n', 'o', 'n', 'e']]
  relayPrefix := ['r', 'e', 'l', 'a', 'y', ':']
  tcpPrefix := ['t', 'c', 'p', ':']
  midiPrefix := ['m', 'i', 'd', 'i', ':']

/-- The free value behind the OPEN parameters: nothing is known of it (log 2). -/
opaque Config.freeParams : Params

/-- The parameters of the machine: an arbitrary record that meets the spec's conditions. It is the free record where
that is legal, so it ranges over exactly the legal records; the other branch only keeps it legal (log 2). -/
def Config.params : Params :=
  match Config.freeParams.legal with
  | true => Config.freeParams
  | false => Config.vectorParams

/-- Free answers of the transport oracle, at the number of the call (R94, D49; log 1). -/
opaque Config.freeOpen : Nat → OpenAnswer

/-- Free answer of `T.readAvailable()`: `(count, brk)`, or Failure (R94; log 1). -/
opaque Config.freeReadAvailable : Nat → Answer (Nat × Bool)

/-- Free answer of `T.read(k)` before its bound of `k` bytes is kept (R94; log 1). -/
opaque Config.freeRead : Nat → Answer (List Byte)

/-- Free answer of `T.writeAvailable(n)` (R94; log 1). -/
opaque Config.freeWriteAvailable : Nat → Answer Bool

/-- Free answer of `T.write(bytes)` before its bound `length(bytes)` is kept (R94; log 1). -/
opaque Config.freeWrite : Nat → Answer Nat

/-- Free answer of `T.flush()` (R94; log 1). -/
opaque Config.freeFlush : Nat → Answer Unit

/-- Free answer of `T.getLineStatus()` (R94; log 1). -/
opaque Config.freeGetLineStatus : Nat → Answer LineLevels

/-- Free answer of `T.setLineStatus(dtr, rts)` (R94; log 1). -/
opaque Config.freeSetLineStatus : Nat → Answer Unit

end Sys2Proof
end

