-- ==== Sys2Proof/Syntax.lean ====
section
/-! DEFINITION. The instruction set: one constructor per row of spec/opcode_table.json (R38). What the stimulus word
itself carries is here; the side band (now, g, name, cfg; R37) is not part of the word and stands in the state. -/

namespace Sys2Proof

/-- A stimulus, as its word gives it (spec/30_encoding.md R38). -/
inductive Instr where
  /-- `WSERPER w` (R55). -/
  | wserper (w : Reg)
  /-- `WSERDAT w` (R64). -/
  | wserdat (w : Reg)
  /-- `RSERDATR` (R81). -/
  | rserdatr
  /-- `RSTATUS dir cur` (R88). -/
  | rstatus (dir cur : Byte)
  /-- `WSTATUS dir val` (R89). -/
  | wstatus (dir val : Byte)
  /-- `SETBRK` (R67). -/
  | setbrk
  /-- `CLRBRK` (R68). -/
  | clrbrk
  /-- `ACKRBF` (R82). -/
  | ackrbf
  /-- `TICK lc` (R93); `lc` is "a natural number", carried by a 16-bit field (R39). -/
  | tick (lc : Nat)
  /-- `FIRE TX_DONE` (R65); its generation `g` is in the side band. -/
  | fireTxDone
  /-- `FIRE LOOPBACK_RX` (R83); its generation `g` is in the side band. -/
  | fireLoopbackRx
  /-- `OPEN` (R100); `name` and `cfg` are in the side band. -/
  | openSession
  /-- `CLOSE` (R101). -/
  | closeSession
deriving DecidableEq, Repr

end Sys2Proof
end

