-- ==== Sys2Proof/WellFormed.lean ====
section
/-! DEFINITION. When an instruction has an encoding: every operand fits its field (R36, R39). Only TICK's line cycles
are not held to their field by their type. -/

namespace Sys2Proof

/-- `TICK`'s operand is the unsigned value of the 16-bit field A (R39). -/
def Instr.tickFits : Instr → Bool
  | .tick lc => decide (lc < 2 ^ 16)
  | .wserper _ | .wserdat _ | .rserdatr | .rstatus _ _ | .wstatus _ _ | .setbrk | .clrbrk | .ackrbf
  | .fireTxDone | .fireLoopbackRx | .openSession | .closeSession => true

/-- The instruction has an encoding. -/
def Instr.wf (i : Instr) : Bool := i.tickFits

end Sys2Proof
end

