-- ==== Sys2Proof/Decode.lean ====
section
/-! DEFINITION. The decoder and the encoder of the 32-bit stimulus word (spec/30_encoding.md R36 to R41). Total on
every word: a reserved word is refused by name (R40). -/

namespace Sys2Proof

/-- Why a word is reserved (R40). -/
inductive Reserved where
  /-- `op` is one of 0x0, 0xD, 0xE, 0xF. -/
  | opcode (op : BitVec 4)
  /-- `op = 0xA` and `sub ≥ 2`. -/
  | fireKind (sub : BitVec 4)
  /-- A field that R38 says must be zero is not zero. -/
  | nonzeroField (op : BitVec 4)
deriving DecidableEq, Repr

/-- Field `op`, bits 31:28 (R36). -/
def opOf (w : Word) : BitVec 4 := w.extractLsb' 28 4

/-- Field `sub`, bits 27:24 (R36). -/
def subOf (w : Word) : BitVec 4 := w.extractLsb' 24 4

/-- Field `B`, bits 23:16 (R36). -/
def bOf (w : Word) : Byte := w.extractLsb' 16 8

/-- Field `A`, bits 15:0 (R36). -/
def aOf (w : Word) : Reg := w.extractLsb' 0 16

/-- `A[15:8]` (R38, the rows of the status byte). -/
def aHigh (a : Reg) : Byte := a.extractLsb' 8 8

/-- `A[7:0]` (R38, the rows of the status byte). -/
def aLow (a : Reg) : Byte := a.extractLsb' 0 8

/-- Accept `i` when the fields that R38 says must be zero are zero. -/
def accept (zero : Bool) (op : BitVec 4) (i : Instr) : Except Reserved Instr :=
  if zero then .ok i else .error (.nonzeroField op)

/-- Decode the fields of a word by the operation map of R38. -/
def decodeFields (op sub : BitVec 4) (b : Byte) (a : Reg) : Except Reserved Instr :=
  match op.toNat with
  | 0x1 => accept (sub == 0 && b == 0) op (.wserper a)
  | 0x2 => accept (sub == 0 && b == 0) op (.wserdat a)
  | 0x3 => accept (sub == 0 && b == 0 && a == 0) op .rserdatr
  | 0x4 => accept (sub == 0 && aHigh a == 0) op (.rstatus b (aLow a))
  | 0x5 => accept (sub == 0 && aHigh a == 0) op (.wstatus b (aLow a))
  | 0x6 => accept (sub == 0 && b == 0 && a == 0) op .setbrk
  | 0x7 => accept (sub == 0 && b == 0 && a == 0) op .clrbrk
  | 0x8 => accept (sub == 0 && b == 0 && a == 0) op .ackrbf
  | 0x9 => accept (sub == 0 && b == 0) op (.tick a.toNat)
  | 0xA =>
    match sub.toNat with
    | 0 => accept (b == 0 && a == 0) op .fireTxDone
    | 1 => accept (b == 0 && a == 0) op .fireLoopbackRx
    | _ => .error (.fireKind sub)
  | 0xB => accept (sub == 0 && b == 0 && a == 0) op .openSession
  | 0xC => accept (sub == 0 && b == 0 && a == 0) op .closeSession
  | _ => .error (.opcode op)

/-- The decoder: "A decoder reads `op` first" (R36, R38, R40). -/
def decode (w : Word) : Except Reserved Instr := decodeFields (opOf w) (subOf w) (bOf w) (aOf w)

/-- The word with the four fields of R36. -/
def assemble (op sub : BitVec 4) (b : Byte) (a : Reg) : Word := op ++ sub ++ b ++ a

/-- The word of an instruction, by the operation map of R38. For a `tick` that is not well formed only the low 16 bits
of its operand are written. -/
def encode : Instr → Word
  | .wserper w => assemble 0x1 0 0 w
  | .wserdat w => assemble 0x2 0 0 w
  | .rserdatr => assemble 0x3 0 0 0
  | .rstatus dir cur => assemble 0x4 0 dir (cur.setWidth 16)
  | .wstatus dir val => assemble 0x5 0 dir (val.setWidth 16)
  | .setbrk => assemble 0x6 0 0 0
  | .clrbrk => assemble 0x7 0 0 0
  | .ackrbf => assemble 0x8 0 0 0
  | .tick lc => assemble 0x9 0 0 (BitVec.ofNat 16 lc)
  | .fireTxDone => assemble 0xA 0 0 0
  | .fireLoopbackRx => assemble 0xA 1 0 0
  | .openSession => assemble 0xB 0 0 0
  | .closeSession => assemble 0xC 0 0 0

/-- The stimulus word whose bits are `w`, of which the opcode table gives `nbits`: every bit above them is 0. -/
def tableWord (nbits w : Nat) : Word := BitVec.ofNat 32 (w % 2 ^ nbits)

/-- The instruction the decoder reads from an opcode-table word. -/
def decodeTableWord (nbits w : Nat) : Option Instr :=
  match decode (tableWord nbits w) with
  | .ok i => some i
  | .error _ => none

end Sys2Proof
end

