-- ==== Sys2Proof/Machine/State.lean ====
section
/-! DEFINITION. The whole state, as plain data: the record `UartState` of spec/10_state.md R13 in its six groups with
the session configuration (R8), the outputs the spec observes (spec/20_memory.md R27), and the model's own fields:
parameters, side band, the host's stimuli and the transport's answers. -/

namespace Sys2Proof.Machine

/-- The transmit states of R18. -/
inductive ShiftState where
  | empty
  | loaded
  | draining
  | stalled
deriving DecidableEq, Repr

/-- The seven transport kinds of R21. -/
inductive Transport where
  | none
  | realDevice
  | tcpSocket
  | loopback
  | sharedMemoryIpc
  | networkRelay
  | midi
deriving DecidableEq, Repr

/-- The two kinds of callback (R22). -/
inductive CallbackKind where
  | txDone
  | loopbackRx
deriving DecidableEq, Repr

/-- The log reasons of spec/60_exceptions.md R103. -/
inductive LogReason where
  | openFailed
  | transportFailed
  | overrun
  | rxQueueOverflow
  | frameDesync
  | noDevice
  | opened
  | closed
  | baudSet
  | holdingOverwritten
  | breakOn
  | breakOff
  | breakWindowEnd
  | breakDetected
  | breakHold
  | breakClear
deriving DecidableEq, Repr

/-- The output events of R27. -/
inductive Event where
  | irqTBE
  | irqRBF
  | schedule (kind : CallbackKind) (cycle : Nat) (gen : Nat)
  | write (bytes : List Byte) (n : Nat)
  | flush
  | applyBaud (rate : Nat)
  | setLines (dtr rts : Bool)
  | log (reason : LogReason)
deriving DecidableEq, Repr

/-- A transport oracle call with its answer: "also recorded in the history, in call order" (R27, R94). -/
inductive Exchange where
  | opened (kind : Transport) (answer : OpenAnswer)
  | readAvailable (answer : Answer (Nat × Bool))
  | read (k : Nat) (answer : Answer (List Byte))
  | writeAvailable (n : Nat) (answer : Answer Bool)
  | write (bytes : List Byte) (answer : Answer Nat)
  | flush (answer : Answer Unit)
  | getLineStatus (answer : Answer LineLevels)
  | setLineStatus (dtr rts : Bool) (answer : Answer Unit)
deriving DecidableEq, Repr

/-- What a history entry records (R27). -/
inductive Record where
  | event (e : Event)
  | call (x : Exchange)
deriving DecidableEq, Repr

/-- A history entry: a record with the `now` of the stimulus that made it (R27). -/
structure Entry where
  now : Nat
  record : Record
deriving DecidableEq, Repr

/-- A value returned by a stimulus (R38, column "result"; R27). -/
inductive Returned where
  /-- The word of `RSERDATR` (R81). -/
  | serdatr (w : Reg)
  /-- The byte of `RSTATUS` (R88). -/
  | status (b : Byte)
  /-- `ok` of `OPEN` (R100). -/
  | openOk
  /-- `failed` of `OPEN` (R100). -/
  | openFailed
deriving DecidableEq, Repr

/-- A loopback echo in flight (R13, R59). -/
structure Echo where
  word : Reg
  due : Nat
deriving DecidableEq, Repr

/-- Period and baud (R13). -/
structure Baud where
  period : Reg
  periodSet : Bool
  appliedBaud : Nat
  txPeriodCycles : Nat
  rxPeriodCycles : Nat
deriving DecidableEq, Repr

/-- Transmit pipeline (R13). -/
structure Tx where
  holding : Reg
  dataPending : Bool
  shiftReg : Reg
  shiftBits : Nat
  shiftState : ShiftState
  txBitTime : Nat
  txFrameCycles : Nat
  txStartAt : Nat
  txDoneAt : Nat
  txAccum : Nat
  emitBuf : List Byte
  emitIdx : Nat
  lastSent : Option Byte
  txBreakAsserted : Bool
  breakTxCounter : Nat
  txFrozenRem : Nat
  loopQueue : List Echo
deriving DecidableEq, Repr

/-- Receive pipeline (R13). -/
structure Rx where
  receiveReg : Reg
  rbf : Bool
  overrun : Bool
  breakCounter : Int
  breakDelay : Nat
  rxAccum : Nat
  rxPrefix : Option Bool
  receiveQueue : List Reg
  unreadLines : Nat
deriving DecidableEq, Repr

/-- Interrupt bookkeeping (R13). -/
structure Irq where
  rbfUnacked : Bool
  stickyRbf : Bool
deriving DecidableEq, Repr

/-- Control lines, true = asserted (R13, R84). -/
structure Lines where
  dtrOut : Bool
  rtsOut : Bool
  linesIn : LineLevels
deriving DecidableEq, Repr

/-- Session (R13). -/
structure Session where
  transport : Transport
  available : Bool
  gen : Nat
deriving DecidableEq, Repr

/-- The side band of a stimulus (R37): `now`; `g` for `FIRE`; `name` and `cfg` for `OPEN`. -/
structure SideBand where
  now : Nat
  g : Nat
  name : Name
  cfg : SessionCfg
deriving DecidableEq, Repr

/-- A stimulus as the host issues it: its word (R36) and its side band (R37). -/
structure Stimulus where
  word : Word
  side : SideBand
deriving DecidableEq, Repr

/-- Oracle answers lined up by the environment, per kind of call, next first (R94). Where a list is empty the answer is
a free value of Config (log 1). -/
structure Script where
  opens : List OpenAnswer
  readAvailables : List (Answer (Nat × Bool))
  reads : List (Answer (List Byte))
  writeAvailables : List (Answer Bool)
  writes : List (Answer Nat)
  flushes : List (Answer Unit)
  getLineStatuses : List (Answer LineLevels)
  setLineStatuses : List (Answer Unit)
deriving DecidableEq, Repr

/-- The machine's state. -/
structure State where
  /-- Period and baud (R13). -/
  baud : Baud
  /-- Transmit pipeline (R13). -/
  tx : Tx
  /-- Receive pipeline (R13). -/
  rx : Rx
  /-- Interrupt bookkeeping (R13). -/
  irq : Irq
  /-- Control lines (R13). -/
  lines : Lines
  /-- Session (R13). -/
  session : Session
  /-- Session configuration (R8, R13). -/
  cfg : SessionCfg
  /-- The append-only output history (R27). -/
  history : List Entry
  /-- The values returned by stimuli, oldest first (R27). -/
  returned : List Returned
  /-- The index of the next stimulus in the host's stream (R16, D1). -/
  stimIndex : Nat
  /-- The model's own: the OPEN parameters (R7), written by no stimulus (log 2). -/
  par : Params
  /-- The model's own: the side band of the stimulus being run (R37; log 5). -/
  side : SideBand
  /-- The model's own: the stimuli the host has issued and the engine has not taken, next first (log 4). -/
  pending : List Stimulus
  /-- The model's own: the transport's answers lined up (log 1). -/
  script : Script
  /-- The model's own: how many oracle calls have been made; a free answer is taken at this number (log 1). -/
  draws : Nat
deriving DecidableEq, Repr

/-- No stimulus can fault (spec/60_exceptions.md R102): there is no fault, so none can be raised. Safe. -/
inductive Fault where
deriving DecidableEq, Repr

/-- Why the machine takes no step. -/
inductive Refusal where
  /-- Raised by an arm of `exec` for an instruction without a meaning; no arm raises it. Safe. -/
  | notModelled (mnemonic : String)
  /-- Raised by `step` on a reserved word: "The decoder refuses it by name, the engine takes no step, and the state is
  unchanged" (R40). Safe: nothing is claimed of the state after it (log 6). -/
  | reservedWord (reason : Reserved)
deriving DecidableEq, Repr

/-- Reset of the period and baud group under the parameters `p` (R13, column "reset"). -/
def Baud.reset (p : Params) : Baud where
  period := 0
  periodSet := false
  appliedBaud := 0
  txPeriodCycles := 10
  rxPeriodCycles := max 2 p.lineCycles

/-- Reset of the transmit group (R13). -/
def Tx.reset : Tx where
  holding := 0
  dataPending := false
  shiftReg := 0
  shiftBits := 0
  shiftState := .empty
  txBitTime := 0
  txFrameCycles := 0
  txStartAt := 0
  txDoneAt := 0
  txAccum := 0
  emitBuf := []
  emitIdx := 0
  lastSent := none
  txBreakAsserted := false
  breakTxCounter := 0
  txFrozenRem := 0
  loopQueue := []

/-- Reset of the receive group (R13). -/
def Rx.reset : Rx where
  receiveReg := 0
  rbf := false
  overrun := false
  breakCounter := 0
  breakDelay := 0
  rxAccum := 0
  rxPrefix := none
  receiveQueue := []
  unreadLines := 0

/-- Reset of the interrupt bookkeeping (R13). -/
def Irq.reset : Irq where
  rbfUnacked := false
  stickyRbf := false

/-- Reset of the control lines: idle (R13). -/
def Lines.reset : Lines where
  dtrOut := false
  rtsOut := false
  linesIn := { dsr := false, cd := false, cts := false, ri := false }

/-- No answer lined up (log 1, log 10). -/
def Script.empty : Script where
  opens := []
  readAvailables := []
  reads := []
  writeAvailables := []
  writes := []
  flushes := []
  getLineStatuses := []
  setLineStatuses := []

/-- The side band before any stimulus (DESIGN CHOICE, log 10: no stimulus has brought one). -/
def SideBand.initial : SideBand where
  now := 0
  g := 0
  name := []
  cfg := .default

/-- Power-on under the parameters `p`: the closed state with `gen = 0` (spec/70_reset_and_hazards.md R116). -/
def State.resetWith (p : Params) : State where
  baud := .reset p
  tx := .reset
  rx := .reset
  irq := .reset
  lines := .reset
  session := { transport := .none, available := false, gen := 0 }
  cfg := .default
  history := []
  returned := []
  stimIndex := 0
  par := p
  side := .initial
  pending := []
  script := .empty
  draws := 0

/-- The machine right after reset (R115, R116), under arbitrary legal parameters (log 2). -/
def State.reset : State := State.resetWith Config.params

end Sys2Proof.Machine
end

