-- ==== Sys2Proof/Machine/Ops.lean ====
section
/-! DEFINITION. The operations every rule shares: arithmetic (spec/00_scope.md R10), output events (R11,
spec/20_memory.md R27), transport oracle calls (spec/45_session.md R94), the transport's failure (R95), and taking the
next stimulus (R32, R37). The block takes no exception (spec/60_exceptions.md R102, R107): its two interrupts are output
events, requested here. -/

namespace Sys2Proof.Machine

/-- `ceil_div(a, b)` of R10. -/
def ceilDiv (a b : Nat) : Nat := (a + b - 1) / b

/-- `sat_sub(a, b)` of R10. -/
def satSub (a b : Nat) : Nat := max (a - b) 0

/-- `now`, the host cycle supplied with the stimulus (R11, R37). -/
abbrev now (s : State) : Nat := s.side.now

/-! Output events -/

/-- `emit E` (R11): append an event to the history, with the `now` of the stimulus (R27). -/
def emit (e : Event) (s : State) : State :=
  { s with history := s.history ++ [{ now := now s, record := .event e }] }

/-- `log(reason)` (R11): "changes no state". -/
def logReason (r : LogReason) (s : State) : State := emit (.log r) s

/-- `schedule(k, at)` (R11): the callback carries the session's generation. -/
def schedule (k : CallbackKind) (cycle : Nat) (s : State) : State :=
  emit (.schedule k cycle s.session.gen) s

/-- Request the transmit interrupt (R104). -/
def requestTBE (s : State) : State := emit .irqTBE s

/-- Request the receive interrupt (R104). -/
def requestRBF (s : State) : State := emit .irqRBF s

/-- A value returned by the stimulus (R27, R38). -/
def giveBack (r : Returned) (s : State) : State := { s with returned := s.returned ++ [r] }

/-! Transport oracle calls (R94). Each call is one draw: the next answer lined up for that kind of call, or, where none
is, the free value at the number of the call (log 1). `…Answer` is the answer; `called…` is the state after the call,
in which the answer is used up, counted and recorded (R27). -/

/-- The answer at the head of a script, or the free one. -/
def drawn {α : Type} (script : List α) (free : Nat → α) (n : Nat) : α :=
  match script with
  | [] => free n
  | a :: _ => a

/-- The state after an oracle call: the script left, the count, and the record of the call. -/
def called (x : Exchange) (rest : Script) (s : State) : State :=
  { s with
    script := rest
    draws := s.draws + 1
    history := s.history ++ [{ now := now s, record := .call x }] }

/-- `T.open(kind)`. -/
def openAnswer (s : State) : OpenAnswer := drawn s.script.opens Config.freeOpen s.draws

/-- After `T.open(kind)`. -/
def calledOpen (kind : Transport) (s : State) : State :=
  called (.opened kind (openAnswer s)) { s.script with opens := s.script.opens.tail } s

/-- `T.readAvailable()`. -/
def readAvailableAnswer (s : State) : Answer (Nat × Bool) :=
  drawn s.script.readAvailables Config.freeReadAvailable s.draws

/-- After `T.readAvailable()`. -/
def calledReadAvailable (s : State) : State :=
  called (.readAvailable (readAvailableAnswer s)) { s.script with readAvailables := s.script.readAvailables.tail } s

/-- "a list of 0 to k bytes, or Failure" (R94). -/
def boundBytes (k : Nat) : Answer (List Byte) → Answer (List Byte)
  | .failure => .failure
  | .value bytes => .value (bytes.take k)

/-- `T.read(k)`. -/
def readAnswer (k : Nat) (s : State) : Answer (List Byte) :=
  boundBytes k (drawn s.script.reads Config.freeRead s.draws)

/-- After `T.read(k)`. -/
def calledRead (k : Nat) (s : State) : State :=
  called (.read k (readAnswer k s)) { s.script with reads := s.script.reads.tail } s

/-- `T.writeAvailable(n)`. -/
def writeAvailableAnswer (s : State) : Answer Bool :=
  drawn s.script.writeAvailables Config.freeWriteAvailable s.draws

/-- After `T.writeAvailable(n)`. -/
def calledWriteAvailable (n : Nat) (s : State) : State :=
  called (.writeAvailable n (writeAvailableAnswer s)) { s.script with writeAvailables := s.script.writeAvailables.tail } s

/-- "a count `0 ≤ c ≤ length(bytes)`, or Failure" (R94). -/
def boundCount (len : Nat) : Answer Nat → Answer Nat
  | .failure => .failure
  | .value c => .value (min c len)

/-- `T.write(bytes)`. -/
def writeAnswer (bytes : List Byte) (s : State) : Answer Nat :=
  boundCount bytes.length (drawn s.script.writes Config.freeWrite s.draws)

/-- After `T.write(bytes)`. -/
def calledWrite (bytes : List Byte) (s : State) : State :=
  called (.write bytes (writeAnswer bytes s)) { s.script with writes := s.script.writes.tail } s

/-- `T.flush()`. -/
def flushAnswer (s : State) : Answer Unit := drawn s.script.flushes Config.freeFlush s.draws

/-- After `T.flush()`. -/
def calledFlush (s : State) : State :=
  called (.flush (flushAnswer s)) { s.script with flushes := s.script.flushes.tail } s

/-- `T.getLineStatus()`. -/
def getLineStatusAnswer (s : State) : Answer LineLevels :=
  drawn s.script.getLineStatuses Config.freeGetLineStatus s.draws

/-- After `T.getLineStatus()`. -/
def calledGetLineStatus (s : State) : State :=
  called (.getLineStatus (getLineStatusAnswer s)) { s.script with getLineStatuses := s.script.getLineStatuses.tail } s

/-- `T.setLineStatus(dtr, rts)`. -/
def setLineStatusAnswer (s : State) : Answer Unit :=
  drawn s.script.setLineStatuses Config.freeSetLineStatus s.draws

/-- After `T.setLineStatus(dtr, rts)`. -/
def calledSetLineStatus (dtr rts : Bool) (s : State) : State :=
  called (.setLineStatus dtr rts (setLineStatusAnswer s)) { s.script with setLineStatuses := s.script.setLineStatuses.tail } s

/-- `TransportFailed()` (R95): the backend is unavailable from here on. -/
def transportFailed (s : State) : State :=
  logReason .transportFailed { s with session := { s.session with available := false } }

/-! The session's transport -/

/-- `isAvailable()` (R97): the state field; "it reads no oracle and changes nothing". -/
def isAvailable (s : State) : Bool := s.session.available

/-- The transport oracle is never called for None or Loopback (R21). -/
def Transport.external : Transport → Bool
  | .none | .loopback => false
  | .realDevice | .tcpSocket | .sharedMemoryIpc | .networkRelay | .midi => true

/-- The kinds that have a line mechanism (R85, R89). -/
def Transport.hasLines : Transport → Bool
  | .realDevice | .sharedMemoryIpc => true
  | .none | .tcpSocket | .loopback | .networkRelay | .midi => false

/-! Reset -/

/-- `ResetState()` of R115 over the record of R13, then `s.gen <- g` (R100, R101). The history, the host's stimuli, the
transport's answers and the parameters are not part of that record. -/
def resetSession (g : Nat) (s : State) : State :=
  { s with
    baud := .reset s.par
    tx := .reset
    rx := .reset
    irq := .reset
    lines := .reset
    session := { transport := .none, available := false, gen := g }
    cfg := .default }

/-! Stimuli -/

/-- Take a stimulus: its side band becomes the current one, and the stimulus index moves on (R16, R37; log 4). -/
def takeStimulus (st : Stimulus) (rest : List Stimulus) (s : State) : State :=
  { s with pending := rest, side := st.side, stimIndex := s.stimIndex + 1 }

/-- Put a stimulus in front of those the host has issued. -/
def placeStimulus (st : Stimulus) (s : State) : State := { s with pending := st :: s.pending }

/-- The `Schedule` event of a kind that stands: the last of that kind in a history, with its cycle and generation; a
`Schedule` "replaces any pending callback of the same kind" (R22, R27). -/
def lastSchedule (k : CallbackKind) : List Entry → Option (Nat × Nat)
  | [] => none
  | e :: rest =>
    match lastSchedule k rest with
    | some found => some found
    | none =>
      match e.record with
      | .event (.schedule k' cycle gen) => if k' = k then some (cycle, gen) else none
      | _ => none

end Sys2Proof.Machine
end

