-- ==== Sys2Proof/Machine/Operands.lean ====
section
/-! DEFINITION. The fields of the registers and operands (spec/30_encoding.md R39, R44, R45), the received-word forms
(spec/42_receive.md R71) and the status byte's bits (R47). -/

namespace Sys2Proof.Machine

/-- A bit as an 8-bit or 16-bit value. -/
def bitValue (n : Nat) (b : Bool) : BitVec n := if b then 1 else 0

/-! The period register `SERPER` (R44) -/

/-- Bit 15, the 9-bit mode flag `ninebit`. -/
def ninebit (w : Reg) : Bool := w.getLsbD 15

/-- Bits 14:0, the rate count `masked = w & 0x7FFF`. -/
def rateCount (w : Reg) : Nat := (w &&& 0x7FFF).toNat

/-- Frame length in bits: start, data, ninth and stop bit (R53, R57): 10 or 11. -/
def frameBits (nb : Bool) : Nat := 1 + Config.dataBits + nb.toNat + 1

/-! The transmit-data register `SERDAT` (R45) -/

/-- Bits 7:0, the data byte. -/
def dataByte (w : Reg) : Byte := w.extractLsb' 0 8

/-- Bit 8, the ninth data bit. -/
def ninthBit (w : Reg) : Bool := w.getLsbD 8

/-! The received-word form (R71) -/

/-- 8-bit mode: `0x0100 | b`. -/
def received8 (b : Byte) : Reg := 0x0100 ||| b.setWidth 16

/-- 9-bit mode: `0x0200 | (n << 8) | d`. -/
def received9 (n : Bool) (d : Byte) : Reg := 0x0200 ||| (bitValue 16 n <<< 8) ||| d.setWidth 16

/-- The word a loopback echo carries (R59). -/
def echoWord (nb : Bool) (w : Reg) : Reg :=
  if nb then 0x0200 ||| (w &&& 0x01FF) else 0x0100 ||| (w &&& 0x00FF)

/-! The 9-bit prefix byte (R58, R78) -/

/-- The prefix: the sync pattern with the ninth bit in bit 0. -/
def prefixByte (sync : Byte) (n : Bool) : Byte := sync ||| bitValue 8 n

/-- The receiver's check of a prefix byte. -/
def isPrefix (sync p : Byte) : Bool := (p &&& 0xFE) == sync

/-! The status byte (R47), with its active-low levels -/

/-- A byte with bit `i` set to `v`. -/
def setBit (r : Byte) (i : Nat) (v : Bool) : Byte :=
  if v then r ||| (1#8 <<< i) else r &&& ~~~(1#8 <<< i)

/-- An input line's bit: written where the direction bit is 0, low when asserted (R88). -/
def putLine (dir : Byte) (i : Nat) (asserted : Bool) (r : Byte) : Byte :=
  if dir.getLsbD i then r else setBit r i (!asserted)

/-- An output line: taken from `val` where the direction bit is 1, asserted when the bit is 0 (R89). -/
def takeLine (dir val : Byte) (i : Nat) (old : Bool) : Bool :=
  if dir.getLsbD i then !val.getLsbD i else old

end Sys2Proof.Machine
end

