-- ==== Sys2Proof/Machine/Flags.lean ====
section
/-! DEFINITION. The status flags, computed from the state (spec/10_state.md R17), the break output (R20), the composite
word of `SERDATR` (spec/30_encoding.md R46) and the status byte (R47, R88). -/

namespace Sys2Proof.Machine

/-- TBE, "holding register empty" (R17). -/
def flagTBE (s : State) : Bool := !s.tx.dataPending

/-- TSRE, "shift register empty" (R17). -/
def flagTSRE (s : State) : Bool := decide (s.tx.shiftState = .empty)

/-- RBF, "receive register full" (R17). -/
def flagRBF (s : State) : Bool := s.rx.rbf

/-- OVRUN (R17). -/
def flagOVRUN (s : State) : Bool := s.rx.overrun

/-- RXD, the receive line level: 1 = idle, 0 = break (R17). -/
def flagRXD (s : State) : Bool := decide (s.rx.breakCounter = 0)

/-- `breakOut`, the transmit break output (R20). -/
def breakOut (s : State) : Bool := decide (0 < s.tx.breakTxCounter)

/-- A mask where a flag is set. -/
def flagMask (b : Bool) (m : Reg) : Reg := if b then m else 0

/-- The composite word of `SERDATR` (R46, R81). -/
def serdatrWord (s : State) : Reg :=
  flagMask (flagOVRUN s) 0x8000 ||| flagMask (flagRBF s) 0x4000 ||| flagMask (flagTBE s) 0x2000 |||
    flagMask (flagTSRE s) 0x1000 ||| flagMask (flagRXD s) 0x0800 ||| (s.rx.receiveReg &&& 0x03FF)

/-- The status byte that `RSTATUS` returns: CD, CTS and DSR, and RI in SEL's place when `riOnSel` (R87, R88). -/
def statusByte (dir cur : Byte) (riOnSel : Bool) (l : LineLevels) : Byte :=
  let r := putLine dir 3 l.dsr (putLine dir 4 l.cts (putLine dir 5 l.cd cur))
  if riOnSel then putLine dir 2 l.ri r else r

end Sys2Proof.Machine
end

