-- ==== Sys2Proof/Machine/Baud.lean ====
section
/-! DEFINITION. Baud and timing, and the period register (spec/40_baud.md R49 to R55). -/

namespace Sys2Proof.Machine

/-- `per`, "clamped to >= 1" (R50). -/
def timerRate (m : Nat) : Nat := max (Config.clockConstant / (m + 1)) 1

/-- The walk of R50: the first entry at which `per > T[i] * 100 / 97` is false; none at the sentinel. -/
def walk (per : Nat) : List Nat → Option Nat
  | [] => none
  | t :: rest => if per > t * 100 / 97 then walk per rest else some t

/-- `T[1]`, "the table's second entry (lowest real rate, index 1)" (R49 (b)). A legal table has it (log 3). -/
def lowestRate (table : List Nat) : Nat := table.getD 1 0

/-- `Snap(m)` (R50), with the fallback on exhaustion (R51). -/
def snap (table : List Nat) (m : Nat) : Nat :=
  match walk (timerRate m) table with
  | some t => t
  | none => lowestRate table

/-- The baud applied: doubled in 9-bit mode (R52). -/
def appliedRate (table : List Nat) (w : Reg) : Nat :=
  if ninebit w then 2 * snap table (rateCount w) else snap table (rateCount w)

/-- `txPeriodCycles` of a period word (R53). -/
def txPeriodOf (w : Reg) : Nat := (rateCount w + 1) * frameBits (ninebit w)

/-- `rxPeriodCycles` from the transmit period (R53). -/
def rxPeriodOf (lineCycles txPeriod : Nat) : Nat := max (txPeriod / 4) lineCycles

/-- The new deadline of a rescale in cycle-exact mode (R54), with its `Schedule`. -/
def rescaleDeadline (t newBT : Nat) (s : State) : State :=
  let done := t + ceilDiv (satSub s.tx.txDoneAt t * newBT) s.tx.txBitTime
  schedule .txDone done { s with tx := { s.tx with txDoneAt := done } }

/-- The frozen remainder of a rescale during a break window (R54). -/
def rescaleFrozen (newBT : Nat) (s : State) : State :=
  { s with tx := { s.tx with txFrozenRem := ceilDiv (s.tx.txFrozenRem * newBT) s.tx.txBitTime } }

/-- The accumulator of a rescale outside cycle-exact mode (R54). -/
def rescaleAccum (newBT : Nat) (s : State) : State :=
  { s with tx := { s.tx with
      txAccum := newBT * s.tx.shiftBits -
        ceilDiv (satSub s.tx.txFrameCycles s.tx.txAccum * newBT) s.tx.txBitTime } }

/-- The part of `Rescale` that depends on the mode (R54). -/
def rescaleRemainder (t newBT : Nat) (s : State) : State :=
  if s.cfg.cycleExact then
    if s.tx.breakTxCounter > 0 then rescaleFrozen newBT s else rescaleDeadline t newBT s
  else rescaleAccum newBT s

/-- `Rescale(now, newBT)` (R54). The natural subtraction and the division by the bit time are those of the rule; its
own remarks say why neither leaves the naturals in a state a run reaches (log 11). -/
def rescale (t newBT : Nat) (s : State) : State :=
  if newBT = s.tx.txBitTime then s
  else
    let r := rescaleRemainder t newBT s
    { r with tx := { r.tx with txBitTime := newBT, txFrameCycles := newBT * s.tx.shiftBits } }

/-- The period register and everything derived from it, with the events of R55. -/
def setPeriod (w : Reg) (s : State) : State :=
  let rate := appliedRate s.par.baudTable w
  let s1 := { s with baud := { s.baud with period := w, periodSet := true, appliedBaud := rate } }
  let s2 := logReason .baudSet (emit (.applyBaud rate) s1)
  { s2 with baud := { s2.baud with
      txPeriodCycles := txPeriodOf w
      rxPeriodCycles := rxPeriodOf s2.par.lineCycles (txPeriodOf w) } }

/-- The body of `WSERPER` (R55). -/
def writePeriod (w : Reg) (s : State) : State :=
  if s.baud.periodSet && w == s.baud.period then s
  else
    let r := setPeriod w s
    if r.tx.shiftState = .draining then rescale (now r) (rateCount w + 1) r else r

/-- `WSERPER w` (R55). -/
def execWserper (w : Reg) (s : State) : Host.Outcome State Fault Refusal := .next (writePeriod w s)

end Sys2Proof.Machine
end

