-- ==== Sys2Proof/Machine/Transmit.lean ====
section
/-! DEFINITION. The transmit pipeline and the break-condition generator (spec/41_transmit.md R56 to R69). -/

namespace Sys2Proof.Machine

/-! Loading the shifter -/

/-- `Frame(w, nb)` (R58): prefix then data in 9-bit mode; CR before LF under `crlf` in 8-bit mode. -/
def frame (w : Reg) (nb : Bool) (s : State) : List Byte :=
  if nb then [prefixByte s.par.syncBase (ninthBit w), dataByte w]
  else if s.cfg.crlf && dataByte w == 0x0A && s.tx.lastSent != some 0x0D then [0x0D, 0x0A]
  else [dataByte w]

/-- `LoopEcho(t, nb)` (R59): the due cycle is fixed at the load; only the head of the queue has a callback. -/
def loopEcho (t : Nat) (nb : Bool) (s : State) : State :=
  let due := t + s.tx.txFrameCycles + s.par.propCycles
  let r := { s with tx := { s.tx with
      loopQueue := s.tx.loopQueue ++ [{ word := echoWord nb s.tx.shiftReg, due := due }] } }
  if r.tx.loopQueue.length = 1 then schedule .loopbackRx due r else r

/-- The copy of the holding word into the shifter, with the "holding empty" interrupt (R57, R18 Loaded). -/
def latchShifter (s : State) : State :=
  requestTBE { s with tx := { s.tx with
      shiftReg := s.tx.holding
      dataPending := false
      shiftState := .loaded } }

/-- The frame's length, bytes and start, and the state Draining (R57). -/
def startFrame (t : Nat) (s : State) : State :=
  let nb := ninebit s.baud.period
  let bitTime := rateCount s.baud.period + 1
  { s with tx := { s.tx with
      shiftBits := frameBits nb
      txBitTime := bitTime
      txFrameCycles := bitTime * frameBits nb
      emitBuf := if s.session.transport = .loopback then [] else frame s.tx.shiftReg nb s
      emitIdx := 0
      txStartAt := t
      shiftState := .draining } }

/-- The end of the frame in cycle-exact mode: frozen in a break window, else a deadline with its callback (R57). -/
def armFrame (t : Nat) (s : State) : State :=
  if s.cfg.cycleExact then
    if s.tx.breakTxCounter > 0 then { s with tx := { s.tx with txFrozenRem := s.tx.txFrameCycles } }
    else schedule .txDone (t + s.tx.txFrameCycles) { s with tx := { s.tx with txDoneAt := t + s.tx.txFrameCycles } }
  else s

/-- `Load(t)` (R57). -/
def load (t : Nat) (s : State) : State :=
  let s1 := startFrame t (latchShifter s)
  let s2 := if s1.session.transport = .loopback then loopEcho t (ninebit s1.baud.period) s1 else s1
  armFrame t s2

/-! End of a frame and emission -/

/-- The last byte of the frame, kept for CR/LF de-duplication (R62). -/
def lastSentAfter (s : State) : Option Byte :=
  match s.tx.emitBuf.getLast? with
  | some b => some b
  | none => s.tx.lastSent

/-- The shifter emptied (R62). -/
def emptyShifter (s : State) : State :=
  { s with tx := { s.tx with
      lastSent := lastSentAfter s
      shiftState := .empty
      shiftReg := 0
      shiftBits := 0
      txBitTime := 0
      txFrameCycles := 0
      emitBuf := []
      emitIdx := 0 } }

/-- `Finish(t)` (R62): empty the shifter, and pull the next holding word if present. -/
def finish (t : Nat) (s : State) : State :=
  let r := emptyShifter s
  if r.tx.dataPending then load t r else { r with tx := { r.tx with txAccum := 0 } }

/-- The pipeline holds at Stalled (R61). -/
def stall (s : State) : State := { s with tx := { s.tx with shiftState := .stalled } }

/-- The write of `TryEmit` (R61): no byte is written twice. -/
def writeRest (t : Nat) (rest : List Byte) (s : State) : State :=
  match writeAnswer rest s with
  | .failure => finish t (transportFailed (calledWrite rest s))
  | .value n =>
    let r := emit (.write rest n) (calledWrite rest s)
    let r := { r with tx := { r.tx with emitIdx := r.tx.emitIdx + n } }
    if r.tx.emitIdx < r.tx.emitBuf.length then stall r else finish t r

/-- `TryEmit(t)` (R61): hand the unwritten bytes to the transport, with back-pressure. -/
def tryEmit (t : Nat) (s : State) : State :=
  let rest := s.tx.emitBuf.drop s.tx.emitIdx
  match writeAvailableAnswer s with
  | .failure => finish t (transportFailed (calledWriteAvailable rest.length s))
  | .value false => stall (calledWriteAvailable rest.length s)
  | .value true => writeRest t rest (calledWriteAvailable rest.length s)

/-- `Complete(t)` (R60): the frame period has elapsed. -/
def complete (t : Nat) (s : State) : State :=
  if s.session.transport = .loopback then finish t s
  else if s.session.transport = .none || !s.session.available then finish t s
  else tryEmit t s

/-- `TxTick(now, lc)` (R63): retry a stall, or advance the accumulator; at most one frame completes. The retry is
`TryEmit` where there is an available backend; "the engine calls the oracle only when" there is one (R94), and a frame
whose backend has become unavailable is discarded as any other is (R95, R60; log 7). -/
def txTick (t lc : Nat) (s : State) : State :=
  if s.tx.shiftState = .stalled then complete t s
  else if s.tx.shiftState = .draining && !s.cfg.cycleExact && s.tx.breakTxCounter == 0 then
    let r := { s with tx := { s.tx with txAccum := s.tx.txAccum + lc } }
    if r.tx.txAccum ≥ r.tx.txFrameCycles then
      complete t { r with tx := { r.tx with txAccum := r.tx.txAccum - r.tx.txFrameCycles } }
    else r
  else s

/-! Stimuli -/

/-- The body of `WSERDAT` (R64). -/
def writeData (w : Reg) (s : State) : State :=
  let s1 := if s.tx.dataPending then logReason .holdingOverwritten s else s
  let s2 := { s1 with tx := { s1.tx with holding := w, dataPending := true } }
  if s2.tx.shiftState = .empty then load (now s2) s2 else s2

/-- `WSERDAT w` (R64). -/
def execWserdat (w : Reg) (s : State) : Host.Outcome State Fault Refusal := .next (writeData w s)

/-- The body of `FIRE TX_DONE` (R65): each check makes an invalid firing a no-op (R99). -/
def fireTxDone (s : State) : State :=
  if s.side.g ≠ s.session.gen then s
  else if !s.cfg.cycleExact then s
  else if s.tx.shiftState ≠ .draining then s
  else if s.tx.breakTxCounter > 0 then s
  else if now s < s.tx.txDoneAt then s
  else complete (now s) s

/-- `FIRE TX_DONE g` (R65); `g` is the side band's. -/
def execFireTxDone (s : State) : Host.Outcome State Fault Refusal := .next (fireTxDone s)

/-! Break-condition generator -/

/-- The start of a break window (R67): in cycle-exact mode the frame in the shifter is frozen. -/
def startBreakWindow (s : State) : State :=
  let r := { s with tx := { s.tx with breakTxCounter := s.par.breakTxLines } }
  if r.cfg.cycleExact && r.tx.shiftState = .draining then
    { r with tx := { r.tx with txFrozenRem := satSub r.tx.txDoneAt (now r) } }
  else r

/-- The body of `SETBRK` (R67): an assertion starts a window if none is running. -/
def assertBreak (s : State) : State :=
  if s.tx.txBreakAsserted then s
  else
    let r := logReason .breakOn { s with tx := { s.tx with txBreakAsserted := true } }
    if r.tx.breakTxCounter > 0 then r else startBreakWindow r

/-- `SETBRK` (R67). -/
def execSetbrk (s : State) : Host.Outcome State Fault Refusal := .next (assertBreak s)

/-- The body of `CLRBRK` (R68): it re-arms the generator and ends no window. -/
def clearBreak (s : State) : State :=
  logReason .breakOff { s with tx := { s.tx with txBreakAsserted := false } }

/-- `CLRBRK` (R68). -/
def execClrbrk (s : State) : Host.Outcome State Fault Refusal := .next (clearBreak s)

/-- The end of a break window (R69): "normal draining resumes". -/
def endBreakWindow (t : Nat) (s : State) : State :=
  let r := logReason .breakWindowEnd s
  if r.cfg.cycleExact && r.tx.shiftState = .draining then
    let done := t + r.tx.txFrozenRem
    schedule .txDone done { r with tx := { r.tx with txDoneAt := done, txFrozenRem := 0 } }
  else r

/-- `BreakTxTick(now)` (R69). -/
def breakTxTick (t : Nat) (s : State) : State :=
  if s.tx.breakTxCounter > 0 then
    let r := { s with tx := { s.tx with breakTxCounter := s.tx.breakTxCounter - 1 } }
    if r.tx.breakTxCounter = 0 then endBreakWindow t r else r
  else s

end Sys2Proof.Machine
end

