-- ==== Sys2Proof/Machine/Receive.lean ====
section
/-! DEFINITION. The receive pipeline, the break detector and the overrun (spec/42_receive.md R70 to R83). -/

namespace Sys2Proof.Machine

/-- `CanReceive()`, the intake gate (R72). -/
def canReceive (s : State) : Bool :=
  !s.rx.rbf || s.cfg.cycleExact || s.cfg.safeReceive || s.cfg.overrunForced ||
    decide (s.session.transport = .loopback) || s.cfg.extDevForced

/-! Delivery -/

/-- A word into the empty register (R79), with the interrupt or its sticky form (R105). -/
def deliverToRegister (w : Reg) (s : State) : State :=
  let r := { s with rx := { s.rx with receiveReg := w &&& 0x03FF, rbf := true, unreadLines := 0 } }
  if r.irq.rbfUnacked then { r with irq := { r.irq with stickyRbf := true } }
  else
    let r := requestRBF r
    { r with irq := { r.irq with rbfUnacked := true } }

/-- A word into the queue: dropped, with a log, when the queue is full (R26, R79). -/
def enqueue (w : Reg) (s : State) : State :=
  if s.rx.receiveQueue.length < s.par.rxQueueCap then
    { s with rx := { s.rx with receiveQueue := s.rx.receiveQueue ++ [w] } }
  else logReason .rxQueueOverflow s

/-- `Deliver(w)` (R79). -/
def deliver (w : Reg) (s : State) : State :=
  if s.rx.rbf then enqueue w s else deliverToRegister w s

/-! Intake -/

/-- `rxPrefix` written. -/
def setPrefix (p : Option Bool) (s : State) : State := { s with rx := { s.rx with rxPrefix := p } }

/-- The byte of an 8-bit intake: with `crlf` every 0x0A is dropped (R76, R77). -/
def acceptByte (b : Byte) (s : State) : State :=
  if s.cfg.crlf && b == 0x0A then s else deliver (received8 b) s

/-- `Intake8(count)` (R76). -/
def intake8 (count : Nat) (s : State) : State :=
  let r := setPrefix none s
  if count = 0 then r
  else
    match readAnswer 1 r with
    | .failure => transportFailed (calledRead 1 r)
    | .value [] => calledRead 1 r
    | .value (b :: _) => acceptByte b (calledRead 1 r)

/-- The data half of `Intake9` under the accepted ninth bit `n` (R78). -/
def intake9Data (n : Bool) (count : Nat) (s : State) : State :=
  if count = 0 then s
  else
    match readAnswer 1 s with
    | .failure => transportFailed (calledRead 1 s)
    | .value [] => calledRead 1 s
    | .value (d :: _) => deliver (received9 n d) (setPrefix none (calledRead 1 s))

/-- The prefix half of `Intake9` (R78): a byte that fails the check is dropped and logged. -/
def intake9Prefix (count : Nat) (s : State) : State :=
  if count = 0 then s
  else
    match readAnswer 1 s with
    | .failure => transportFailed (calledRead 1 s)
    | .value [] => calledRead 1 s
    | .value (p :: _) =>
      let r := calledRead 1 s
      if isPrefix r.par.syncBase p then intake9Data (p.getLsbD 0) (count - 1) (setPrefix (some (p.getLsbD 0)) r)
      else logReason .frameDesync r

/-- `Intake9(count)` (R78). -/
def intake9 (count : Nat) (s : State) : State :=
  match s.rx.rxPrefix with
  | some n => intake9Data n count s
  | none => intake9Prefix count s

/-! The receive step -/

/-- A break is detected at this step (R73, R74). -/
def detectBreak (s : State) : State :=
  logReason .breakDetected { s with rx := { s.rx with breakCounter := -1, breakDelay := Config.breakDetectSteps } }

/-- A step in the detecting phase (R73, R74). -/
def detectingStep (s : State) : State :=
  let r := { s with rx := { s.rx with breakDelay := s.rx.breakDelay - 1 } }
  if r.rx.breakDelay = 0 then
    logReason .breakHold { r with rx := { r.rx with breakCounter := (r.par.breakRxLines : Int), rxPrefix := none } }
  else r

/-- Intake from a byte transport (R73, part 3). -/
def intakeFromTransport (count : Nat) (s : State) : State :=
  if !canReceive s then s
  else if s.session.transport = .none || s.session.transport = .loopback || !s.session.available then s
  else if ninebit s.baud.period then intake9 count s
  else intake8 count s

/-- Parts 2 and 3 of the receive step: a buffered word goes first (R73). -/
def takeWord (count : Nat) (s : State) : State :=
  match s.rx.receiveQueue with
  | [] => intakeFromTransport count s
  | w :: rest =>
    if s.rx.rbf then intakeFromTransport count s
    else deliver w { s with rx := { s.rx with receiveQueue := rest } }

/-- `RxStep(now, count, brk)` (R73). -/
def rxStep (count : Nat) (brk : Bool) (s : State) : State :=
  if s.rx.breakCounter > 0 then s
  else if s.rx.breakCounter < 0 then detectingStep s
  else takeWord count (if brk then detectBreak s else s)

/-- `RxBreakTick()` (R75). -/
def rxBreakTick (s : State) : State :=
  if s.rx.breakCounter > 0 then
    let r := { s with rx := { s.rx with breakCounter := s.rx.breakCounter - 1 } }
    if r.rx.breakCounter = 0 then logReason .breakClear r else r
  else s

/-! Overrun -/

/-- `unreadLines` written. -/
def setUnread (n : Nat) (s : State) : State := { s with rx := { s.rx with unreadLines := n } }

/-- The flush of the backend's pending input (R80); a Failure does not stop the overrun (log 9). -/
def flushTransport (s : State) : State :=
  match flushAnswer s with
  | .failure => emit .flush (transportFailed (calledFlush s))
  | .value () => emit .flush (calledFlush s)

/-- The register after an overrun (R80): OVRUN set, the stale word cleared. -/
def overrunRegister (s : State) : State :=
  { s with rx := { s.rx with
      overrun := true
      receiveReg := 0
      rbf := false
      unreadLines := 0
      rxPrefix := none } }

/-- The forced overrun (R80): it is logged whatever the backend answers to the flush (log 9). -/
def forceOverrun (s : State) : State := logReason .overrun (overrunRegister (flushTransport s))

/-- The tick counts toward the overrun: "register full, back-pressure, data waiting" (R80). -/
def overrunCounts (count : Nat) (s : State) : Bool := !s.cfg.cycleExact && !canReceive s && decide (0 < count)

/-- The overrun fires at this tick (R80). -/
def overrunFires (count : Nat) (s : State) : Bool :=
  overrunCounts count s && decide (s.rx.unreadLines + 1 ≥ Config.overrunLines)

/-- The state part of `RxOverrunTick(count)` (R80); what it returns is `overrunFires count s`. -/
def rxOverrunTick (count : Nat) (s : State) : State :=
  if s.cfg.cycleExact then setUnread 0 s
  else if !canReceive s && decide (0 < count) then
    let r := setUnread (s.rx.unreadLines + 1) s
    if r.rx.unreadLines ≥ Config.overrunLines then forceOverrun r else r
  else setUnread 0 s

/-! Stimuli -/

/-- What reading the register does (R81): RBF cleared, a sticky interrupt re-asserted (R105). -/
def clearRead (s : State) : State :=
  let r := { s with rx := { s.rx with rbf := false, unreadLines := 0 } }
  if r.irq.stickyRbf then
    let r := requestRBF r
    { r with irq := { r.irq with stickyRbf := false, rbfUnacked := true } }
  else r

/-- The body of `RSERDATR` (R81): "the read reports the flags as they were before the read". -/
def readData (s : State) : State := giveBack (.serdatr (serdatrWord s)) (clearRead s)

/-- `RSERDATR` (R81). -/
def execRserdatr (s : State) : Host.Outcome State Fault Refusal := .next (readData s)

/-- The body of `ACKRBF` (R82). -/
def acknowledge (s : State) : State :=
  { s with irq := { s.irq with rbfUnacked := false }, rx := { s.rx with overrun := false } }

/-- `ACKRBF` (R82). -/
def execAckrbf (s : State) : Host.Outcome State Fault Refusal := .next (acknowledge s)

/-- The callback of the next echo, if one is queued (R83). -/
def scheduleNextEcho (s : State) : State :=
  match s.tx.loopQueue with
  | [] => s
  | e :: _ => schedule .loopbackRx (max e.due (now s)) s

/-- The body of `FIRE LOOPBACK_RX` (R83): one firing delivers one echo, "and not before" its due cycle. -/
def fireLoopback (s : State) : State :=
  if s.side.g ≠ s.session.gen then s
  else if s.session.transport ≠ .loopback then s
  else
    match s.tx.loopQueue with
    | [] => s
    | e :: rest =>
      if now s < e.due then s
      else scheduleNextEcho (deliver e.word { s with tx := { s.tx with loopQueue := rest } })

/-- `FIRE LOOPBACK_RX g` (R83); `g` is the side band's. -/
def execFireLoopbackRx (s : State) : Host.Outcome State Fault Refusal := .next (fireLoopback s)

end Sys2Proof.Machine
end

