-- ==== Sys2Proof/Machine/ControlLines.lean ====
section
/-! DEFINITION. The control lines behind the direction-masked status byte (spec/43_control_lines.md R84 to R89). -/

namespace Sys2Proof.Machine

/-- "unsupported backends report lines as always-asserted" (R85). -/
def allAsserted : LineLevels := { dsr := true, cd := true, cts := true, ri := true }

/-- The transport's line calls are made (R85, R89): a kind with a line mechanism that is available. -/
def linesConnected (s : State) : Bool := s.session.transport.hasLines && s.session.available

/-- The levels that `LineSource()` returns (R85). -/
def sourceLines (s : State) : LineLevels :=
  if s.session.transport = .loopback then
    { dsr := s.lines.dtrOut, cd := true, cts := s.lines.rtsOut, ri := true }
  else if linesConnected s then
    match getLineStatusAnswer s with
    | .failure => allAsserted
    | .value l => l
  else allAsserted

/-- The state after `LineSource()` (R85). -/
def afterSource (s : State) : State :=
  if linesConnected s then
    match getLineStatusAnswer s with
    | .failure => transportFailed (calledGetLineStatus s)
    | .value _ => calledGetLineStatus s
  else s

/-- The body of `RSTATUS` (R88). -/
def readStatus (dir cur : Byte) (s : State) : State :=
  let l := sourceLines s
  let r := afterSource s
  giveBack (.status (statusByte dir cur r.cfg.riOnSel l)) { r with lines := { r.lines with linesIn := l } }

/-- `RSTATUS dir cur` (R88). -/
def execRstatus (dir cur : Byte) (s : State) : Host.Outcome State Fault Refusal := .next (readStatus dir cur s)

/-- A change of DTR or RTS forwarded to the backend (R89). -/
def forwardLines (dtr rts : Bool) (s : State) : State :=
  if linesConnected s then
    match setLineStatusAnswer s with
    | .failure => transportFailed (calledSetLineStatus dtr rts s)
    | .value () => emit (.setLines dtr rts) (calledSetLineStatus dtr rts s)
  else s

/-- The body of `WSTATUS` (R89). -/
def writeStatus (dir val : Byte) (s : State) : State :=
  let d := takeLine dir val 7 s.lines.dtrOut
  let r := takeLine dir val 6 s.lines.rtsOut
  if d = s.lines.dtrOut ∧ r = s.lines.rtsOut then s
  else forwardLines d r { s with lines := { s.lines with dtrOut := d, rtsOut := r } }

/-- `WSTATUS dir val` (R89). -/
def execWstatus (dir val : Byte) (s : State) : Host.Outcome State Fault Refusal := .next (writeStatus dir val s)

end Sys2Proof.Machine
end

