-- ==== Sys2Proof/Machine/Tick.lean ====
section
/-! DEFINITION. The periodic tick (spec/44_tick.md R90 to R93) with its poll (spec/45_session.md R96). -/

namespace Sys2Proof.Machine

/-- The poll asks the transport (R96). -/
def pollAsks (s : State) : Bool := s.session.transport.external && s.session.available

/-- What `Poll()` returns: `(count, brk)` (R96). On Loopback the transmitter's `breakOut` is wired back. -/
def pollResult (s : State) : Nat × Bool :=
  if s.session.transport = .loopback then (0, breakOut s)
  else if pollAsks s then
    match readAvailableAnswer s with
    | .failure => (0, false)
    | .value x => x
  else (0, false)

/-- The state after `Poll()` (R96). -/
def polled (s : State) : State :=
  if pollAsks s then
    match readAvailableAnswer s with
    | .failure => transportFailed (calledReadAvailable s)
    | .value _ => calledReadAvailable s
  else s

/-- `TickRx(now, lc, count, brk)` (R91): at most one receive step. -/
def tickRx (lc count : Nat) (brk : Bool) (s : State) : State :=
  let r := { s with rx := { s.rx with rxAccum := s.rx.rxAccum + lc } }
  if r.rx.rxAccum ≥ r.baud.rxPeriodCycles then
    rxStep count brk { r with rx := { r.rx with rxAccum := r.rx.rxAccum - r.baud.rxPeriodCycles } }
  else r

/-- `TickTimers(now)` (R92). -/
def tickTimers (t : Nat) (s : State) : State := breakTxTick t (rxBreakTick s)

/-- The count left for the rest of the tick: 0 if the overrun flushed (R90, step 2). -/
def countAfterOverrun (count : Nat) (s : State) : Nat := if overrunFires count s then 0 else count

/-- Steps 3 to 5 of a tick (R90); a failure in them is logged whatever step 2 has logged (log 9). -/
def tickPipelines (lc count : Nat) (brk : Bool) (s : State) : State :=
  tickTimers (now s) (tickRx lc count brk (txTick (now s) lc s))

/-- The body of `TICK` (R93): poll, overrun, transmit, receive, timers (R90). -/
def tickBody (lc : Nat) (s : State) : State :=
  let count := (pollResult s).1
  let brk := (pollResult s).2
  let r := polled s
  tickPipelines lc (countAfterOverrun count r) brk (rxOverrunTick count r)

/-- `TICK lc` (R93). -/
def execTick (lc : Nat) (s : State) : Host.Outcome State Fault Refusal := .next (tickBody lc s)

end Sys2Proof.Machine
end

