-- ==== Sys2Proof/Machine/Session.lean ====
section
/-! DEFINITION. Transport selection, callback validity and the session lifecycle (spec/45_session.md R98 to R101). -/

namespace Sys2Proof.Machine

/-- `Select(name)` (R98): whole tokens first, then prefixes, case-sensitively, in this order. -/
def select (p : Params) (name : Name) : Transport :=
  if name = p.shmToken then .sharedMemoryIpc
  else if name = p.loopToken then .loopback
  else if p.noneTokens.contains name then .none
  else if p.relayPrefix.isPrefixOf name then .networkRelay
  else if p.tcpPrefix.isPrefixOf name then .tcpSocket
  else if p.midiPrefix.isPrefixOf name then .midi
  else .realDevice

/-- The predicate of a `TX_DONE` callback (R99). -/
def txDoneValid (s : State) : Bool :=
  s.cfg.cycleExact && decide (s.tx.shiftState = .draining) && s.tx.breakTxCounter == 0 && decide (s.tx.txDoneAt ≤ now s)

/-- The predicate of a `LOOPBACK_RX` callback (R99). -/
def loopbackValid (s : State) : Bool :=
  decide (s.session.transport = .loopback) &&
    match s.tx.loopQueue with
    | [] => false
    | e :: _ => decide (e.due ≤ now s)

/-- "A callback is valid at firing time only if it passes both checks" (R99). -/
def callbackValid (k : CallbackKind) (s : State) : Bool :=
  s.side.g == s.session.gen &&
    match k with
    | .txDone => txDoneValid s
    | .loopbackRx => loopbackValid s

/-- Transport and availability of the new session. -/
def attach (k : Transport) (available : Bool) (s : State) : State :=
  { s with session := { s.session with transport := k, available := available } }

/-- The new session before its backend: every field reset, a new generation, the given configuration (R100). -/
def freshSession (s : State) : State :=
  { resetSession (s.session.gen + 1) s with cfg := s.side.cfg }

/-- The opening of an external backend (R100); any answer but `ok` falls back to no device (log 8). -/
def openBackend (k : Transport) (s : State) : State :=
  match openAnswer s with
  | .ok => giveBack .openOk (logReason .opened (attach k true (calledOpen k s)))
  | .failed => giveBack .openFailed (logReason .openFailed (attach .none false (calledOpen k s)))
  | .failure => giveBack .openFailed (logReason .openFailed (attach .none false (calledOpen k s)))

/-- The body of `OPEN` (R100). -/
def openBody (s : State) : State :=
  let r := freshSession s
  let k := select s.par s.side.name
  if k = .none then giveBack .openOk (logReason .noDevice (attach .none false r))
  else if k = .loopback then giveBack .openOk (logReason .opened (attach .loopback true r))
  else openBackend k r

/-- `OPEN name cfg` (R100); `name` and `cfg` are the side band's. -/
def execOpen (s : State) : Host.Outcome State Fault Refusal := .next (openBody s)

/-- The body of `CLOSE` (R101). -/
def closeBody (s : State) : State := logReason .closed (resetSession (s.session.gen + 1) s)

/-- `CLOSE` (R101). -/
def execClose (s : State) : Host.Outcome State Fault Refusal := .next (closeBody s)

end Sys2Proof.Machine
end

