-- ==== Sys2Proof/Machine/Dispatch.lean ====
section
/-! DEFINITION. Which meaning each instruction has: one arm per constructor. -/

namespace Sys2Proof.Machine

def exec (i : Instr) (s : State) : Host.Outcome State Fault Refusal :=
  match i with
  | .wserper w => Sys2Proof.Machine.execWserper w s
  | .wserdat w => Sys2Proof.Machine.execWserdat w s
  | .rserdatr => Sys2Proof.Machine.execRserdatr s
  | .rstatus dir cur => Sys2Proof.Machine.execRstatus dir cur s
  | .wstatus dir val => Sys2Proof.Machine.execWstatus dir val s
  | .setbrk => Sys2Proof.Machine.execSetbrk s
  | .clrbrk => Sys2Proof.Machine.execClrbrk s
  | .ackrbf => Sys2Proof.Machine.execAckrbf s
  | .tick lc => Sys2Proof.Machine.execTick lc s
  | .fireTxDone => Sys2Proof.Machine.execFireTxDone s
  | .fireLoopbackRx => Sys2Proof.Machine.execFireLoopbackRx s
  | .openSession => Sys2Proof.Machine.execOpen s
  | .closeSession => Sys2Proof.Machine.execClose s

end Sys2Proof.Machine
end

