-- ==== Sys2Proof/Machine/Step.lean ====
section
/-! DEFINITION. One step: the next stimulus of the host's stream is taken, decoded and run (R5, R32). -/

namespace Sys2Proof.Machine

/-- With no stimulus issued the block does nothing: "it does work only inside a stimulus" (R114; log 4). A reserved word
is refused (R40). Any other word runs as one atomic operation (R30, R32). -/
def step (s : State) : Host.Outcome State Fault Refusal :=
  match s.pending with
  | [] => .next s
  | st :: rest =>
    match decode st.word with
    | .error r => .refused (.reservedWord r)
    | .ok i => exec i (takeStimulus st rest s)

/-- The stimulus whose word has the bits `w`, put where `step` takes its next one, with the side band the state has
(log 5). -/
def State.withFetchWord (s : State) (nbits w : Nat) : State :=
  placeStimulus { word := tableWord nbits w, side := s.side } s

end Sys2Proof.Machine
end

