-- ==== Sys2Proof/Machine/Assembler.lean ====
section
/-! DEFINITION. The spec's own assembler notation (spec/30_encoding.md R42), read and printed, and the pseudo-stimuli and
their expansions (R43). The machine does not use them. -/

namespace Sys2Proof.Machine

/-! Pseudo-stimuli (R43) -/

/-- `PUTCH c`: data in bits 7:0 and a stop bit in bit 8. -/
def putch (c : Byte) : List Instr := [.wserdat (0x0100 ||| c.setWidth 16)]

/-- `PUTCH9 v`: data in bits 8:0 and a stop bit in bit 9. -/
def putch9 (v : BitVec 9) : List Instr := [.wserdat (0x0200 ||| v.setWidth 16)]

/-- `SENDBREAK`. -/
def sendBreak : List Instr := [.setbrk, .clrbrk]

/-- `TICKS n lc` after the side band `side`: "n successive `TICK lc` stimuli, each with `now` advanced by `lc`", the
first at one `lc` after the cycle of `side` (log 16). -/
def ticks (lc : Nat) (side : SideBand) : Nat → List Stimulus
  | 0 => []
  | n + 1 =>
    let next := { side with now := side.now + lc }
    { word := encode (.tick lc), side := next } :: ticks lc next n

/-! Assembler syntax, printed (R42) -/

/-- A configuration field that is set, as the programs of spec/95_test_vectors.md write it. -/
def asmFlag (name : String) (b : Bool) : List String := if b then [name ++ "=true"] else []

/-- The configuration fields of `OPEN` that differ from the default of R115, separated by commas (log 17). -/
def asmCfg (c : SessionCfg) : String :=
  String.singleton (Char.ofNat 123) ++
    ", ".intercalate
      (asmFlag "cycleExact" c.cycleExact ++ asmFlag "safeReceive" c.safeReceive ++ asmFlag "crlf" c.crlf ++
        asmFlag "hwFlow" c.hwFlow ++ asmFlag "direct" c.direct ++ asmFlag "riOnSel" c.riOnSel ++
        asmFlag "overrunForced" c.overrunForced ++ asmFlag "extDevForced" c.extDevForced ++
        (if c.stopBits = .two then ["stopBits=2"] else [])) ++
    String.singleton (Char.ofNat 125)

/-- `MNEMONIC operands`, with the side band's operands; numbers are decimal (R42). -/
def asmInstr (side : SideBand) : Instr → String
  | .wserper w => "WSERPER " ++ toString w.toNat
  | .wserdat w => "WSERDAT " ++ toString w.toNat
  | .rserdatr => "RSERDATR"
  | .rstatus dir cur => "RSTATUS dir=" ++ toString dir.toNat ++ " cur=" ++ toString cur.toNat
  | .wstatus dir val => "WSTATUS dir=" ++ toString dir.toNat ++ " val=" ++ toString val.toNat
  | .setbrk => "SETBRK"
  | .clrbrk => "CLRBRK"
  | .ackrbf => "ACKRBF"
  | .tick lc => "TICK " ++ toString lc
  | .fireTxDone => "FIRE TX_DONE g=" ++ toString side.g
  | .fireLoopbackRx => "FIRE LOOPBACK_RX g=" ++ toString side.g
  | .openSession => "OPEN \"" ++ String.ofList side.name ++ "\" " ++ asmCfg side.cfg
  | .closeSession => "CLOSE"

/-- One line, `[now] MNEMONIC operands` (R42); none for a reserved word. -/
def asmStimulus (st : Stimulus) : Option String :=
  match decode st.word with
  | .ok i => some ("[" ++ toString st.side.now ++ "] " ++ asmInstr st.side i)
  | .error _ => none

/-! Assembler syntax, read (R42). A line is read as characters; what the notation does not allow is refused (none). What
R42 leaves open about the notation is settled as log 17 says. -/

/-- The value of a digit. -/
def asmDigit (c : Char) : Option Nat :=
  if '0' ≤ c ∧ c ≤ '9' then some (c.toNat - '0'.toNat)
  else if 'a' ≤ c ∧ c ≤ 'f' then some (c.toNat - 'a'.toNat + 10)
  else if 'A' ≤ c ∧ c ≤ 'F' then some (c.toNat - 'A'.toNat + 10)
  else none

/-- Digits after the value read so far, each below the base. -/
def asmDigits (base : Nat) (acc : Nat) : List Char → Option Nat
  | [] => some acc
  | c :: rest =>
    match asmDigit c with
    | some d => if d < base then asmDigits base (acc * base + d) rest else none
    | none => none

/-- "Numbers are decimal, or hexadecimal with the prefix `0x`." -/
def asmNumber : List Char → Option Nat
  | [] => none
  | '0' :: 'x' :: c :: rest => asmDigits 16 0 (c :: rest)
  | c :: rest => asmDigits 10 0 (c :: rest)

/-- A number below a bound. -/
def asmBelow (bound : Nat) (cs : List Char) : Option Nat := (asmNumber cs).filter (fun n => decide (n < bound))

/-- An operand with its name: `name=number`. -/
def asmKeyed (name : String) (cs : List Char) : Option Nat :=
  let key := name.toList ++ ['=']
  if key.isPrefixOf cs then asmNumber (cs.drop key.length) else none

/-- An 8-bit operand with its name. -/
def asmByte (name : String) (cs : List Char) : Option Byte :=
  ((asmKeyed name cs).filter (fun n => decide (n < 2 ^ 8))).map (BitVec.ofNat 8)

/-- The parts between separators, empty ones among them. -/
def asmSplit (separator : Char) (cs : List Char) : List (List Char) := cs.splitOnP (fun c => c == separator)

/-- The words of a line, between any number of spaces (log 17). -/
def asmWords (cs : List Char) : List (List Char) := (asmSplit ' ' cs).filter (fun w => !w.isEmpty)

/-- One configuration field of `OPEN`, `name=value` with the names of R8, over the fields before it: `true` or `false`,
and for `stopBits` 1 or 2 (log 17). -/
def asmCfgField (c : SessionCfg) (field : List Char) : Option SessionCfg :=
  match asmSplit '=' field with
  | [name, value] =>
    let v := value == "true".toList
    if name == "stopBits".toList then
      (if value == ['1'] then some { c with stopBits := .one }
        else if value == ['2'] then some { c with stopBits := .two } else none)
    else if !v && value != "false".toList then none
    else if name == "cycleExact".toList then some { c with cycleExact := v }
    else if name == "safeReceive".toList then some { c with safeReceive := v }
    else if name == "crlf".toList then some { c with crlf := v }
    else if name == "hwFlow".toList then some { c with hwFlow := v }
    else if name == "direct".toList then some { c with direct := v }
    else if name == "riOnSel".toList then some { c with riOnSel := v }
    else if name == "overrunForced".toList then some { c with overrunForced := v }
    else if name == "extDevForced".toList then some { c with extDevForced := v }
    else none
  | _ => none

/-- The configuration fields inside the braces of `OPEN`, separated by commas: R42 does not say how (log 17). A field not
named has its default (log 16). -/
def asmCfgFields (inside : List Char) : Option SessionCfg :=
  (if inside.isEmpty then [] else asmSplit ',' inside).foldlM asmCfgField SessionCfg.default

/-- The operands of `OPEN`: a quoted name, which ends at the next quote, then the configuration fields in braces; spaces
outside the quotes are skipped. How several fields are separated is the model's choice: by commas (log 17). -/
def asmOpen (cs : List Char) : Option (Name × SessionCfg) :=
  match cs.dropWhile (fun c => c == ' ') with
  | '"' :: quoted =>
    let name := quoted.takeWhile (fun c => c != '"')
    match (quoted.drop (name.length + 1)).filter (fun c => c != ' ') with
    | open' :: fields =>
      let inside := fields.takeWhile (fun c => c != Char.ofNat 125)
      let after := fields.drop (inside.length + 1)
      if open' == Char.ofNat 123 && inside.length < fields.length && (after.isEmpty || after.head? == some ';') then
        (asmCfgFields inside).map (fun c => (name, c))
      else none
    | [] => none
  | _ => none

/-- The words of a line after its cycle number, `OPEN` apart: the stimuli they stand for (R42, R43). -/
def asmStimuli (side : SideBand) (words : List (List Char)) : Option (List Stimulus) :=
  let one (i : Instr) : Option (List Stimulus) := some [{ word := encode i, side := side }]
  let all (is : List Instr) : List Stimulus := is.map (fun i => { word := encode i, side := side })
  match words.map String.ofList with
  | ["RSERDATR"] => one .rserdatr
  | ["SETBRK"] => one .setbrk
  | ["CLRBRK"] => one .clrbrk
  | ["ACKRBF"] => one .ackrbf
  | ["CLOSE"] => one .closeSession
  | ["SENDBREAK"] => some (all sendBreak)
  | ["WSERPER", w] => (asmBelow (2 ^ 16) w.toList).bind (fun n => one (.wserper (BitVec.ofNat 16 n)))
  | ["WSERDAT", w] => (asmBelow (2 ^ 16) w.toList).bind (fun n => one (.wserdat (BitVec.ofNat 16 n)))
  | ["TICK", lc] => (asmBelow (2 ^ 16) lc.toList).bind (fun n => one (.tick n))
  | ["PUTCH", c] => (asmBelow (2 ^ 8) c.toList).map (fun n => all (putch (BitVec.ofNat 8 n)))
  | ["PUTCH9", v] => (asmBelow (2 ^ 9) v.toList).map (fun n => all (putch9 (BitVec.ofNat 9 n)))
  | ["TICKS", n, lc] =>
    match asmNumber n.toList, asmBelow (2 ^ 16) lc.toList with
    | some n, some lc => some (ticks lc side n)
    | _, _ => none
  | ["RSTATUS", d, c] =>
    match asmByte "dir" d.toList, asmByte "cur" c.toList with
    | some d, some c => one (.rstatus d c)
    | _, _ => none
  | ["WSTATUS", d, v] =>
    match asmByte "dir" d.toList, asmByte "val" v.toList with
    | some d, some v => one (.wstatus d v)
    | _, _ => none
  | ["FIRE", kind, g] =>
    match asmKeyed "g" g.toList with
    | some g =>
      let fired := { side with g := g }
      if kind == "TX_DONE" then some [{ word := encode .fireTxDone, side := fired }]
      else if kind == "LOOPBACK_RX" then some [{ word := encode .fireLoopbackRx, side := fired }]
      else none
    | none => none
  | _ => none

/-- One line, `[now] MNEMONIC operands`: the stimuli it stands for. A `;` starts a comment. R42 does not say whether a
line may be blank or hold only a comment: the model refuses both (log 17). -/
def asmLine (cs : List Char) : Option (List Stimulus) :=
  match cs.dropWhile (fun c => c == ' ') with
  | '[' :: rest =>
    let cycle := rest.takeWhile (fun c => c != ']')
    let body := (rest.drop (cycle.length + 1)).dropWhile (fun c => c == ' ')
    match asmDigits 10 0 cycle with
    | none => none
    | some t =>
      let side := { SideBand.initial with now := t }
      if cycle.isEmpty then none
      else if "OPEN ".toList.isPrefixOf body then
        (asmOpen (body.drop 5)).map
          (fun x => [{ word := encode .openSession, side := { side with name := x.1, cfg := x.2 } }])
      else asmStimuli side (asmWords (body.takeWhile (fun c => c != ';')))
  | _ => none

end Sys2Proof.Machine
end

