-- ==== Sys2Proof/Safety.lean ====
section
/-! DEFINITION. The terms claims are stated in: history entries, the invariants of spec/10_state.md R24 with the other
facts the rules keep, the end of a frame (spec/41_transmit.md R57 to R63) and a delivery (spec/42_receive.md R72 to R79)
in the rules' own words, the host's duty on time (spec/70_reset_and_hazards.md R118), and what a safe run is. -/

namespace Sys2Proof.Machine

/-! History -/

/-- The entry an event makes in the state's stimulus (R27). -/
def eventEntry (s : State) (e : Event) : Entry := { now := s.side.now, record := .event e }

/-- The entry an oracle call makes in the state's stimulus (R27). -/
def callEntry (s : State) (x : Exchange) : Entry := { now := s.side.now, record := .call x }

/-- How often an event stands in a list of entries. -/
def countEvent (e : Event) (entries : List Entry) : Nat :=
  entries.countP (fun x => decide (x.record = .event e))

/-- A transmit event of a tick: `IrqTBE` or `Write` (R106). -/
def Entry.isTransmit (x : Entry) : Bool :=
  match x.record with
  | .event .irqTBE => true
  | .event (.write _ _) => true
  | _ => false

/-- A receive event of a tick: `IrqRBF` (R106). -/
def Entry.isReceive (x : Entry) : Bool := decide (x.record = .event .irqRBF)

/-- The five error codes of R103; its "further log reasons" have "no error meaning". -/
def LogReason.isErrorCode : LogReason → Bool
  | .openFailed | .transportFailed | .overrun | .rxQueueOverflow | .frameDesync => true
  | .noDevice | .opened | .closed | .baudSet | .holdingOverwritten | .breakOn | .breakOff | .breakWindowEnd
  | .breakDetected | .breakHold | .breakClear => false

/-- The entry reports an error code. -/
def Entry.isErrorCode (x : Entry) : Bool :=
  match x.record with
  | .event (.log r) => r.isErrorCode
  | _ => false

/-- The call answered Failure (R94). -/
def Exchange.failed : Exchange → Bool
  | .opened _ a => decide (a = .failure)
  | .readAvailable a => decide (a = .failure)
  | .read _ a => decide (a = .failure)
  | .writeAvailable _ a => decide (a = .failure)
  | .write _ a => decide (a = .failure)
  | .flush a => decide (a = .failure)
  | .getLineStatus a => decide (a = .failure)
  | .setLineStatus _ _ a => decide (a = .failure)

/-- The entry is an oracle call (R27). -/
def Entry.isCall (x : Entry) : Bool :=
  match x.record with
  | .call _ => true
  | .event _ => false

/-- The entry is an oracle call that answered Failure (R94). -/
def Entry.isFailedCall (x : Entry) : Bool :=
  match x.record with
  | .call c => c.failed
  | .event _ => false

/-! Invariants -/

/-- The shifter (R18; R24, items 1, 2 and 5; the types of R13). -/
structure ShifterInv (s : State) : Prop where
  /-- "no stimulus observes Loaded" (R18). -/
  notLoaded : s.tx.shiftState ≠ .loaded
  /-- R24, item 5. -/
  busy : (s.tx.shiftState = .draining ∨ s.tx.shiftState = .stalled) ↔ 0 < s.tx.shiftBits
  /-- R24, item 5. -/
  emitted : s.tx.emitIdx ≤ s.tx.emitBuf.length
  /-- "0 or 10 or 11" (R13). -/
  bits : s.tx.shiftBits = 0 ∨ s.tx.shiftBits = 10 ∨ s.tx.shiftBits = 11
  /-- "length 0 to 2" (R13). -/
  bytes : s.tx.emitBuf.length ≤ 2
  /-- An empty shifter holds nothing, and no word waits for it (R57, R62, R64). -/
  idle : s.tx.shiftState = .empty →
    s.tx.dataPending = false ∧ s.tx.shiftReg = 0 ∧ s.tx.txBitTime = 0 ∧ s.tx.emitBuf = [] ∧ s.tx.txAccum = 0
  /-- The frame is its bits at its bit time (R57, R54). -/
  length : s.tx.txFrameCycles = s.tx.txBitTime * s.tx.shiftBits
  /-- The bit time of a word in the shifter is at least 1 (R57). -/
  bitTime : s.tx.shiftState ≠ .empty → 0 < s.tx.txBitTime

/-- The receiver (R19; R24, items 3, 4, 6 and 7; R80). -/
structure ReceiverInv (s : State) : Prop where
  /-- R24, item 7. -/
  register : s.rx.receiveReg &&& 0xFC00 = 0
  /-- R24, item 6. -/
  queue : s.rx.receiveQueue.length ≤ s.par.rxQueueCap
  /-- The overrun fires when the count reaches 200 (R80). -/
  unread : s.rx.unreadLines < 200
  /-- Detecting, holding or clear (R19, R24, item 4). -/
  phase : (s.rx.breakCounter = -1 ∧ s.rx.breakDelay = 1) ∨
    (0 ≤ s.rx.breakCounter ∧ s.rx.breakCounter ≤ (s.par.breakRxLines : Int) ∧ s.rx.breakDelay = 0)
  /-- "only outside cycle-exact timing mode" (R24, item 3). -/
  overrunMode : s.rx.overrun = true → s.cfg.cycleExact = false

/-- The session, the periods and the break window (R21, R53, R59, R61, R67). -/
structure SessionInv (s : State) : Prop where
  noneUnavailable : s.session.transport = .none → s.session.available = false
  loopbackAvailable : s.session.transport = .loopback → s.session.available = true
  echoes : s.tx.loopQueue ≠ [] → s.session.transport = .loopback
  stallExternal : s.tx.shiftState = .stalled → s.session.transport.external = true
  txPeriod : s.baud.txPeriodCycles =
    (s.baud.period.toNat % 2 ^ 15 + 1) * (if s.baud.period.getLsbD 15 then 11 else 10)
  rxPeriod : s.baud.rxPeriodCycles = max (s.baud.txPeriodCycles / 4) s.par.lineCycles
  window : s.tx.breakTxCounter ≤ s.par.breakTxLines

/-- The state invariant: what every step keeps. -/
structure Inv (s : State) : Prop where
  shifter : ShifterInv s
  receiver : ReceiverInv s
  session : SessionInv s

/-- In cycle-exact mode, outside a break window, the `Schedule` event of kind `TX_DONE` that stands names the
deadline of the frame in the shifter, in the current generation (R22, R54, R57, R69). -/
def DeadlineScheduled (s : State) : Prop :=
  s.cfg.cycleExact = true → s.tx.shiftState = .draining → s.tx.breakTxCounter = 0 →
    lastSchedule .txDone s.history = some (s.tx.txDoneAt, s.session.gen)

/-- While an echo is in flight, the `Schedule` event of kind `LOOPBACK_RX` that stands is of the current generation, and
no earlier than the head's due cycle (R59, R83). -/
def EchoScheduled (s : State) : Prop :=
  ∀ e rest, s.tx.loopQueue = e :: rest →
    ∃ cycle, e.due ≤ cycle ∧ lastSchedule .loopbackRx s.history = some (cycle, s.session.gen)

/-! The end of a frame, in the spec's terms (R57 to R62) -/

/-- The last byte of the frame in the shifter, or the one before it where the frame has no bytes (R62). -/
def lastByte (s : State) : Option Byte := if s.tx.emitBuf = [] then s.tx.lastSent else s.tx.emitBuf.getLast?

/-- The transmit group when the word waiting in `holding` has been loaded at the stimulus's cycle, after a byte `last`
(R57, R58, R59): the frame of the period of now, its bytes or its echo, and its deadline. -/
def loadedTx (last : Option Byte) (s : State) : Tx :=
  let w := s.tx.holding
  let nine := s.baud.period.getLsbD 15
  let bits := if nine then 11 else 10
  let bitTime := s.baud.period.toNat % 2 ^ 15 + 1
  let byte : Byte := BitVec.ofNat 8 w.toNat
  let bytes : List Byte :=
    if nine then [s.par.syncBase ||| (if w.getLsbD 8 then 1 else 0), byte]
    else if s.cfg.crlf = true ∧ byte = 0x0A ∧ last ≠ some 0x0D then [0x0D, 0x0A]
    else [byte]
  let echo : Reg := if nine then 0x0200 ||| (w &&& 0x01FF) else 0x0100 ||| (w &&& 0x00FF)
  let looped := s.session.transport = .loopback
  { s.tx with
    dataPending := false
    shiftReg := w
    shiftBits := bits
    shiftState := .draining
    txBitTime := bitTime
    txFrameCycles := bitTime * bits
    txStartAt := s.side.now
    emitBuf := if looped then [] else bytes
    emitIdx := 0
    lastSent := last
    loopQueue := if looped
      then s.tx.loopQueue ++ [{ word := echo, due := s.side.now + bitTime * bits + s.par.propCycles }]
      else s.tx.loopQueue
    txDoneAt := if s.cfg.cycleExact = true ∧ s.tx.breakTxCounter = 0 then s.side.now + bitTime * bits else s.tx.txDoneAt
    txFrozenRem := if s.cfg.cycleExact = true ∧ 0 < s.tx.breakTxCounter then bitTime * bits else s.tx.txFrozenRem }

/-- The events of that load: `IrqTBE`, then the callback of an echo that is alone in flight, then that of a live deadline
(R57, R59). -/
def loadedEvents (s : State) : List Entry :=
  let frameCycles := (s.baud.period.toNat % 2 ^ 15 + 1) * (if s.baud.period.getLsbD 15 then 11 else 10)
  [eventEntry s .irqTBE] ++
    (if s.session.transport = .loopback ∧ s.tx.loopQueue = []
      then [eventEntry s (.schedule .loopbackRx (s.side.now + frameCycles + s.par.propCycles) s.session.gen)] else []) ++
    (if s.cfg.cycleExact = true ∧ s.tx.breakTxCounter = 0
      then [eventEntry s (.schedule .txDone (s.side.now + frameCycles) s.session.gen)] else [])

/-- The state when the frame in the shifter has ended (R62): the waiting word is loaded, and the accumulator is kept for
it; without one the shifter is empty and "an idle line keeps no phase". -/
def frameEnded (s : State) : State :=
  if s.tx.dataPending then
    { s with tx := loadedTx (lastByte s) s, history := s.history ++ loadedEvents s }
  else
    { s with tx := { s.tx with
        lastSent := lastByte s
        shiftState := .empty, shiftReg := 0, shiftBits := 0, txBitTime := 0, txFrameCycles := 0,
        emitBuf := [], emitIdx := 0, txAccum := 0 } }

/-! The parts of a tick, in the spec's terms (R90) -/

/-- The intake gate of R72: the register is empty, or something forces intake. -/
abbrev GateOpen (s : State) : Prop :=
  s.rx.rbf = false ∨ s.cfg.cycleExact = true ∨ s.cfg.safeReceive = true ∨ s.cfg.overrunForced = true ∨
    s.session.transport = .loopback ∨ s.cfg.extDevForced = true

/-- The receive accumulator crosses in a tick of `lc` cycles: a receive step comes (R91). -/
abbrev Crosses (lc : Nat) (s : State) : Prop := s.baud.rxPeriodCycles ≤ s.rx.rxAccum + lc

/-- The accumulator after such a tick (R91). -/
def accumulatedTo (lc : Nat) (s : State) : Nat :=
  if Crosses lc s then s.rx.rxAccum + lc - s.baud.rxPeriodCycles else s.rx.rxAccum + lc

/-- The tick's poll reports a break (R96): the transmitter's own on Loopback, else the one the backend answers. -/
def BreakReported (s : State) : Prop :=
  (s.session.transport = .loopback ∧ 0 < s.tx.breakTxCounter) ∨
    (s.session.transport.external = true ∧ s.session.available = true ∧
      ∃ count, readAvailableAnswer s = .value (count, true))

/-- `Polls s count brk p`: the poll of a tick (R96) gives `(count, brk)` and leaves `p`, in each of its three outcomes. -/
inductive Polls (s : State) : Nat → Bool → State → Prop where
  /-- No backend to ask: on Loopback the transmitter's break is wired back. -/
  | unasked (gone : s.session.transport.external = false ∨ s.session.available = false) :
      Polls s 0 (decide (s.session.transport = .loopback ∧ 0 < s.tx.breakTxCounter)) s
  /-- The backend answers. -/
  | answered (count : Nat) (brk : Bool) (polls : List (Answer (Nat × Bool)))
      (external : s.session.transport.external = true) (there : s.session.available = true)
      (poll : s.script.readAvailables = .value (count, brk) :: polls) :
      Polls s count brk { s with
        script := { s.script with readAvailables := polls }
        draws := s.draws + 1
        history := s.history ++ [callEntry s (.readAvailable (.value (count, brk)))] }
  /-- The backend fails: it is unavailable from here on (R95). -/
  | failed (polls : List (Answer (Nat × Bool)))
      (external : s.session.transport.external = true) (there : s.session.available = true)
      (poll : s.script.readAvailables = .failure :: polls) :
      Polls s 0 false { s with
        session := { s.session with available := false }
        script := { s.script with readAvailables := polls }
        draws := s.draws + 1
        history := s.history ++ [callEntry s (.readAvailable .failure), eventEntry s (.log .transportFailed)] }

/-- `TxRests lc p u`: the transmit step of a tick in which no frame ends (R63); it leaves `u`. -/
inductive TxRests (lc : Nat) (p : State) : State → Prop where
  /-- Nothing in the shifter. -/
  | idle (empty : p.tx.shiftState = .empty) : TxRests lc p p
  /-- A word that drains by its deadline, or that a break window holds. -/
  | timed (draining : p.tx.shiftState = .draining) (held : p.cfg.cycleExact = true ∨ 0 < p.tx.breakTxCounter) :
      TxRests lc p p
  /-- A word that drains by the tick's cycles, which do not end it. -/
  | counts (draining : p.tx.shiftState = .draining) (inexact : p.cfg.cycleExact = false)
      (noWindow : p.tx.breakTxCounter = 0) (short : p.tx.txAccum + lc < p.tx.txFrameCycles) :
      TxRests lc p { p with tx := { p.tx with txAccum := p.tx.txAccum + lc } }
  /-- A stalled word that the backend has no room for. -/
  | full (more : List (Answer Bool)) (stalled : p.tx.shiftState = .stalled)
      (external : p.session.transport.external = true) (there : p.session.available = true)
      (room : p.script.writeAvailables = .value false :: more) :
      TxRests lc p { p with
        script := { p.script with writeAvailables := more }
        draws := p.draws + 1
        history := p.history ++ [callEntry p (.writeAvailable (p.tx.emitBuf.drop p.tx.emitIdx).length (.value false))] }

/-- The receiver after a tick that takes nothing, `count` being what the poll found: the accumulator moves on (R91), the
run of unread ticks counts or is broken (R80), and an 8-bit receive step with the gate open forgets a 9-bit prefix
(R76). -/
def restedRx (lc count : Nat) (p : State) : Rx :=
  { p.rx with
    rxAccum := accumulatedTo lc p
    unreadLines := if GateOpen p ∨ count = 0 then 0 else p.rx.unreadLines + 1
    rxPrefix :=
      if Crosses lc p ∧ GateOpen p ∧ p.baud.period.getLsbD 15 = false ∧ p.session.transport.external = true ∧
          p.session.available = true then none
      else p.rx.rxPrefix }

/-- `QuietTick lc s r`: a tick whose receiver takes nothing. It is not in a break, the tick is not the 200th of a run of
unread ones, and if a receive step comes, its poll reports no break, no queued word can move, and nothing waits or the
gate is shut. `r` is `s` after the poll and the receiver's part (R73, R80, R90, R91, R96). -/
inductive QuietTick (lc : Nat) (s : State) : State → Prop where
  | tick {count : Nat} {brk : Bool} {p : State} (poll : Polls s count brk p) (clear : s.rx.breakCounter = 0)
      (noOverrun : ¬ GateOpen s → 0 < count → s.rx.unreadLines + 1 < 200)
      (step : Crosses lc s → brk = false ∧ (s.rx.rbf = true ∨ s.rx.receiveQueue = []) ∧ (count = 0 ∨ ¬ GateOpen s)) :
      QuietTick lc s { p with rx := restedRx lc count p }

/-- `HandsOver i s r`: the stimulus `i` brings the frame in the shifter to its end (R61, R63, R65); `r` is `s` with all
that `i` does beside that. -/
inductive HandsOver : Instr → State → State → Prop where
  /-- A valid firing of `TX_DONE` (R65). -/
  | firing {s : State} (gen : s.side.g = s.session.gen) (exact : s.cfg.cycleExact = true)
      (draining : s.tx.shiftState = .draining) (noWindow : s.tx.breakTxCounter = 0) (due : s.tx.txDoneAt ≤ s.side.now) :
      HandsOver .fireTxDone s s
  /-- A tick at which the frame's accumulator crosses: the excess is retained (R63). -/
  | crossing {lc : Nat} {s r : State} (quiet : QuietTick lc s r) (inexact : s.cfg.cycleExact = false)
      (draining : s.tx.shiftState = .draining) (noWindow : s.tx.breakTxCounter = 0)
      (crosses : s.tx.txFrameCycles ≤ s.tx.txAccum + lc) :
      HandsOver (.tick lc) s { r with tx := { s.tx with txAccum := s.tx.txAccum + lc - s.tx.txFrameCycles } }
  /-- A tick on a stalled frame (R63), in both timing modes, also while a break window runs (R67), but for the tick that
  ends the window. -/
  | retry {lc : Nat} {s r : State} (quiet : QuietTick lc s r) (stalled : s.tx.shiftState = .stalled)
      (goesOn : s.tx.breakTxCounter ≠ 1) :
      HandsOver (.tick lc) s { r with tx := { s.tx with breakTxCounter := s.tx.breakTxCounter - 1 } }

/-! A delivery, in the spec's terms (R79, R105) -/

/-- The state when the received word `w` has been delivered: into the empty register, with the interrupt or its sticky
form; into the queue when the register is full; dropped, with a log, when the queue is full too. -/
def delivered (w : Reg) (s : State) : State :=
  if s.rx.rbf = true then
    if s.rx.receiveQueue.length < s.par.rxQueueCap then
      { s with rx := { s.rx with receiveQueue := s.rx.receiveQueue ++ [w] } }
    else { s with history := s.history ++ [eventEntry s (.log .rxQueueOverflow)] }
  else
    { s with
      rx := { s.rx with receiveReg := w &&& 0x03FF, rbf := true, unreadLines := 0 }
      irq := if s.irq.rbfUnacked then { s.irq with stickyRbf := true } else { s.irq with rbfUnacked := true }
      history := s.history ++ (if s.irq.rbfUnacked then [] else [eventEntry s .irqRBF]) }

/-- `Receives lc count s r`: a tick whose receive step may take something (R73): the receiver is not in a break, its
accumulator crosses, the gate is open, the poll reports `count` bytes, no frame ends, and no break window ends. `r` is
`s` after everything but the taking; a break that the poll reports is detected, and "the frame in progress at that step
is still taken" (R74). -/
inductive Receives (lc count : Nat) (s : State) : State → Prop where
  | tick {brk : Bool} {p u : State} (poll : Polls s count brk p) (transmit : TxRests lc p u)
      (goesOn : s.tx.breakTxCounter ≠ 1) (clear : s.rx.breakCounter = 0) (gate : GateOpen s) (crosses : Crosses lc s) :
      Receives lc count s { u with
        tx := { u.tx with breakTxCounter := u.tx.breakTxCounter - 1 }
        rx := { u.rx with
          unreadLines := 0
          rxAccum := accumulatedTo lc s
          breakCounter := if brk then -1 else 0
          breakDelay := if brk then 1 else u.rx.breakDelay }
        history := u.history ++ (if brk then [eventEntry s (.log .breakDetected)] else []) }

/-! The host's duty on time (R118, item 3) -/

/-- `now` never decreases along a stream, from `t` on. -/
def timesOrdered (t : Nat) : List Stimulus → Bool
  | [] => true
  | st :: rest => decide (t ≤ st.side.now) && timesOrdered st.side.now rest

/-! Safe runs -/

/-- A run of any length from `s` raises no fault (R102). -/
def Safe (s : State) : Prop := ∀ k r, Host.Core.run Sys2Proof.core k s ≠ .fault r

end Sys2Proof.Machine
end

