-- ==== Sys2Proof/Certificates/Slice0/Obligations.lean ====
section
/-! DEFINITION. The statements for the provers. Each says in the spec's terms what a rule of spec/ claims. -/

open Sys2Proof Sys2Proof.Machine

/-! Encoding, decoding and stepping -/

/-- R36, R38: encoding keeps every operand of every well-formed instruction. -/
def Obligations.DecodeOfEncodeIsTheInstruction : Prop :=
  ∀ i : Instr, i.wf = true → decode (encode i) = .ok i

/-- R36, R38, R40: a word that decodes is the encoding of what it decodes to, so no accepted word is a second spelling. -/
def Obligations.AcceptedWordIsTheEncoding : Prop :=
  ∀ (w : Word) (i : Instr), decode w = .ok i → i.wf = true ∧ encode i = w

/-- R40: the reserved words, by their fields as numbers; the decoder refuses exactly these, and the engine takes no
step on one. -/
def Obligations.ReservedWordsAreExactlyTheRefused : Prop :=
  ∀ (s : State) (st : Stimulus) (rest : List Stimulus), s.pending = st :: rest →
    let n := st.word.toNat
    let op := n / 2 ^ 28
    let sub := n / 2 ^ 24 % 16
    let b := n / 2 ^ 16 % 256
    let a := n % 2 ^ 16
    let reserved :=
      op = 0 ∨ op = 0xD ∨ op = 0xE ∨ op = 0xF ∨ (op = 0xA ∧ 2 ≤ sub) ∨ (op ≠ 0xA ∧ sub ≠ 0) ∨
        (op ≠ 4 ∧ op ≠ 5 ∧ b ≠ 0) ∨ ((op = 4 ∨ op = 5) ∧ a / 256 ≠ 0) ∨
        ((op = 3 ∨ (6 ≤ op ∧ op ≤ 8) ∨ 0xA ≤ op) ∧ a ≠ 0)
    (reserved ↔ ∃ r, decode st.word = .error r) ∧ (reserved ↔ ∃ r, step s = .refused r) ∧
      ∀ r, decode st.word = .error r → step s = .refused (.reservedWord r)

/-- R30, R32, R37: the step takes the next stimulus of the host's stream with its side band and runs exactly the decoded
instruction (the queue of stimuli and the index are the model's form, log 4). -/
def Obligations.StepRunsTheDecodedStimulus : Prop :=
  ∀ (s : State) (st : Stimulus) (rest : List Stimulus) (i : Instr), s.pending = st :: rest → decode st.word = .ok i →
    step s = exec i { s with pending := rest, side := st.side, stimIndex := s.stimIndex + 1 }

/-- The placed word is the one that runs, with the side band the state has (log 5). -/
def Obligations.PlacedWordIsRunNext : Prop :=
  ∀ (s : State) (nbits w : Nat) (i : Instr), decodeTableWord nbits w = some i →
    step (s.withFetchWord nbits w) = exec i { s with stimIndex := s.stimIndex + 1 }

/-- Words written out from the encodings of R38 (spec/95 §2). -/
def Obligations.WordsOfTheSpecDecode : Prop :=
  decode 0x10000170 = .ok (.wserper 0x0170) ∧ decode 0x20000141 = .ok (.wserdat 0x0141) ∧
    decode 0x40C000FF = .ok (.rstatus 0xC0 0xFF) ∧ decode 0x50C0003F = .ok (.wstatus 0xC0 0x3F) ∧
    decode 0x900000E3 = .ok (.tick 227) ∧ decode 0xA0000000 = .ok .fireTxDone ∧
    decode 0xA1000000 = .ok .fireLoopbackRx ∧ decode 0xB0000000 = .ok .openSession

/-! Whole-machine rules -/

/-- R102, R109: every stimulus is accepted in every state, and no run faults. -/
def Obligations.EveryStimulusCompletesInEveryState : Prop :=
  (∀ (i : Instr) (s : State), ∃ t, exec i s = .next t) ∧ ∀ s : State, Safe s

/-- R24 with R18, R19, R21, R53: every step keeps the invariant. -/
def Obligations.StepKeepsTheStateInvariant : Prop :=
  ∀ s t : State, Inv s → step s = .next t → Inv t

/-- R115: the reset state has the invariant. -/
def Obligations.ResetHasTheStateInvariant : Prop := Inv State.reset

/-- R22, R54, R57, R69: in cycle-exact mode the host always holds the live deadline of the frame in the shifter. -/
def Obligations.StepKeepsTheDeadlineScheduled : Prop :=
  ∀ s t : State, DeadlineScheduled s → step s = .next t → DeadlineScheduled t

/-- R59, R83: while an echo is in flight the host holds a live callback for it. -/
def Obligations.StepKeepsTheEchoScheduled : Prop :=
  ∀ s t : State, EchoScheduled s → step s = .next t → EchoScheduled t

/-- R27, R32: outputs are only appended, each entry carries the `now` of its stimulus, and no stimulus writes the
parameters, the side band or the host's stream. -/
def Obligations.HistoryIsAppendOnly : Prop :=
  ∀ (i : Instr) (s t : State), exec i s = .next t →
    (∃ new, t.history = s.history ++ new ∧ ∀ e ∈ new, e.now = s.side.now) ∧
    (∃ given, t.returned = s.returned ++ given) ∧
    t.par = s.par ∧ t.side = s.side ∧ t.pending = s.pending ∧ t.stimIndex = s.stimIndex

/-- R8, R13, R99: only `OPEN` and `CLOSE` change the configuration, the transport or the generation, and each adds 1 to
the generation. -/
def Obligations.OnlyOpenAndCloseChangeTheSession : Prop :=
  ∀ (i : Instr) (s t : State), exec i s = .next t →
    (i ≠ .openSession → i ≠ .closeSession →
      t.cfg = s.cfg ∧ t.session.transport = s.session.transport ∧ t.session.gen = s.session.gen) ∧
    (i = .openSession ∨ i = .closeSession → t.session.gen = s.session.gen + 1) ∧
    (i = .openSession → t.cfg = s.side.cfg) ∧ (i = .closeSession → t.cfg = SessionCfg.default)

/-- R95: nothing but `OPEN` makes a backend available again, and a Failure that makes one unavailable is logged. -/
def Obligations.OnlyOpenMakesTheBackendAvailable : Prop :=
  ∀ (i : Instr) (s t : State), exec i s = .next t → i ≠ .openSession →
    (s.session.available = false → t.session.available = false) ∧
    (i ≠ .closeSession → s.session.available = true → t.session.available = false →
      ∃ new, t.history = s.history ++ new ∧ eventEntry s (.log .transportFailed) ∈ new)

/-- R94: the engine calls the oracle only when an external backend is available, `T.open` apart: without one no stimulus
but `OPEN` makes a call or takes an answer, the tick on a stalled frame included (R95, R60; log 7). -/
def Obligations.OracleIsCalledOnlyOnAnAvailableBackend : Prop :=
  ∀ (i : Instr) (s t : State), exec i s = .next t → i ≠ .openSession →
    (s.session.transport.external = false ∨ s.session.available = false) →
    t.draws = s.draws ∧ t.script = s.script

/-- R13, R55: the period group is written by `WSERPER` alone, and reset by `OPEN` and `CLOSE`. -/
def Obligations.OnlyWserperChangesThePeriod : Prop :=
  ∀ (i : Instr) (s t : State), exec i s = .next t → (∀ w, i ≠ .wserper w) →
    if i = .openSession ∨ i = .closeSession then
      t.baud = { period := 0, periodSet := false, appliedBaud := 0, txPeriodCycles := 10,
                 rxPeriodCycles := max 2 s.par.lineCycles }
    else t.baud = s.baud

/-- R24, item 2: the pending flag goes from set to clear only with the word's copy into the shifter, which raises
`IrqTBE`, or by a reset. -/
def Obligations.PendingClearsOnlyByALoad : Prop :=
  ∀ (i : Instr) (s t : State), exec i s = .next t → i ≠ .openSession → i ≠ .closeSession →
    s.tx.dataPending = true → t.tx.dataPending = false →
    t.tx.shiftState = .draining ∧ t.tx.shiftReg = t.tx.holding ∧
      ∃ new, t.history = s.history ++ new ∧ eventEntry s .irqTBE ∈ new

/-- R24, item 3 and R80 (C9): OVRUN is set only by a tick outside cycle-exact mode that qualifies (the register full,
back-pressure with nothing that forces intake, and a poll of an available backend that reports waiting data) as the
200th of its run, with the flush and the log, and it is cleared only by `ACKRBF` or a reset (R17, R82). -/
def Obligations.OverrunIsSetOnlyByATickOutsideCycleExact : Prop :=
  ∀ (i : Instr) (s t : State), exec i s = .next t →
    (s.rx.overrun = false → t.rx.overrun = true →
      (∃ lc, i = .tick lc) ∧ s.cfg.cycleExact = false ∧ s.rx.rbf = true ∧ s.cfg.safeReceive = false ∧
        s.cfg.overrunForced = false ∧ s.cfg.extDevForced = false ∧ s.session.transport.external = true ∧
        s.session.available = true ∧ (∃ count brk, readAvailableAnswer s = .value (count, brk) ∧ 0 < count) ∧
        199 ≤ s.rx.unreadLines ∧
        ∃ new, t.history = s.history ++ new ∧ eventEntry s .flush ∈ new ∧ eventEntry s (.log .overrun) ∈ new) ∧
    (s.rx.overrun = true → t.rx.overrun = false → i = .ackrbf ∨ i = .openSession ∨ i = .closeSession)

/-! The period register -/

/-- R50, R51: the walk selects the first entry that is not passed, and `T[1]` when every entry is passed. -/
def Obligations.SnapSelectsTheFirstEntryNotPassed : Prop :=
  ∀ (table : List Nat) (m : Nat),
    let per := max (3546895 / (m + 1)) 1
    (∀ before t after, table = before ++ t :: after → (∀ u ∈ before, per > u * 100 / 97) → ¬ per > t * 100 / 97 →
      snap table m = t) ∧
    ((∀ u ∈ table, per > u * 100 / 97) → snap table m = table.getD 1 0)

/-- R51: a rate count at which every entry is passed falls back to `T[1]`; with every legal table (R49 as log 3 reads it)
so does 0; with the default table so do 0 to 12, and 13 gives 256000. -/
def Obligations.PeriodZeroFallsBackToTheLowestRate : Prop :=
  (∀ (table : List Nat) (m : Nat), (∀ u ∈ table, max (3546895 / (m + 1)) 1 > u * 100 / 97) →
    snap table m = table.getD 1 0) ∧
  (∀ p : Params, p.legal = true → snap p.baudTable 0 = p.baudTable.getD 1 0) ∧
  (∀ m, m ≤ 12 → snap Config.defaultBaudTable m = 110) ∧ snap Config.defaultBaudTable 13 = 256000

/-- R49, R50: with every legal table (R49 as log 3 reads it) the period word 368 resolves to 9600. -/
def Obligations.Period368ResolvesTo9600 : Prop :=
  ∀ p : Params, p.legal = true → snap p.baudTable 368 = 9600

/-- R55: a second write of the same value changes nothing. -/
def Obligations.WserperOfTheSamePeriodIsNoOp : Prop :=
  ∀ s : State, s.baud.periodSet = true → exec (.wserper s.baud.period) s = .next s

/-- R52, R53, R55: an effective `WSERPER` with no word draining, in full: the period group, the two events, and
nothing else. -/
def Obligations.WserperOnAnUndrainedShifterSetsThePeriodGroup : Prop :=
  ∀ (w : Reg) (s : State), ¬ (s.baud.periodSet = true ∧ s.baud.period = w) → s.tx.shiftState ≠ .draining →
    let m := w.toNat % 2 ^ 15
    let rate := if w.getLsbD 15 then 2 * snap s.par.baudTable m else snap s.par.baudTable m
    let frameCycles := (m + 1) * (if w.getLsbD 15 then 11 else 10)
    exec (.wserper w) s = .next { s with
      baud := { period := w, periodSet := true, appliedBaud := rate, txPeriodCycles := frameCycles,
                rxPeriodCycles := max (frameCycles / 4) s.par.lineCycles }
      history := s.history ++ [eventEntry s (.applyBaud rate), eventEntry s (.log .baudSet)] }

/-- R54, R55: an effective `WSERPER` while a word drains, in full, for the three cases of `Rescale` and for an unchanged
bit time. -/
def Obligations.WserperWhileDrainingRescales : Prop :=
  ∀ (w : Reg) (s : State), ¬ (s.baud.periodSet = true ∧ s.baud.period = w) → s.tx.shiftState = .draining →
    let m := w.toNat % 2 ^ 15
    let rate := if w.getLsbD 15 then 2 * snap s.par.baudTable m else snap s.par.baudTable m
    let frameCycles := (m + 1) * (if w.getLsbD 15 then 11 else 10)
    let newBaud : Baud := { period := w, periodSet := true, appliedBaud := rate, txPeriodCycles := frameCycles,
                            rxPeriodCycles := max (frameCycles / 4) s.par.lineCycles }
    let events := [eventEntry s (.applyBaud rate), eventEntry s (.log .baudSet)]
    let scaled (rem : Nat) := (rem * (m + 1) + s.tx.txBitTime - 1) / s.tx.txBitTime
    let done := s.side.now + scaled (s.tx.txDoneAt - s.side.now)
    let newFrame := (m + 1) * s.tx.shiftBits
    (m + 1 = s.tx.txBitTime → exec (.wserper w) s = .next { s with baud := newBaud, history := s.history ++ events }) ∧
    (m + 1 ≠ s.tx.txBitTime → s.cfg.cycleExact = true → s.tx.breakTxCounter = 0 →
      exec (.wserper w) s = .next { s with
        baud := newBaud
        tx := { s.tx with txDoneAt := done, txBitTime := m + 1, txFrameCycles := newFrame }
        history := s.history ++ events ++ [eventEntry s (.schedule .txDone done s.session.gen)] }) ∧
    (m + 1 ≠ s.tx.txBitTime → s.cfg.cycleExact = true → 0 < s.tx.breakTxCounter →
      exec (.wserper w) s = .next { s with
        baud := newBaud
        tx := { s.tx with txFrozenRem := scaled s.tx.txFrozenRem, txBitTime := m + 1, txFrameCycles := newFrame }
        history := s.history ++ events }) ∧
    (m + 1 ≠ s.tx.txBitTime → s.cfg.cycleExact = false →
      exec (.wserper w) s = .next { s with
        baud := newBaud
        tx := { s.tx with
          txAccum := newFrame - scaled (s.tx.txFrameCycles - s.tx.txAccum), txBitTime := m + 1,
          txFrameCycles := newFrame }
        history := s.history ++ events })

/-- R54: "rounding is upward, so the remaining time is never shortened": after a rescale the remaining fraction of the
frame is at least what it was, by less than one cycle, in all three cases. -/
def Obligations.RescaleNeverShortensTheRemainder : Prop :=
  ∀ (w : Reg) (s t : State), ShifterInv s → s.tx.shiftState = .draining → exec (.wserper w) s = .next t →
    let oldBT := s.tx.txBitTime
    let newBT := t.tx.txBitTime
    let kept (before after : Nat) := before * newBT ≤ after * oldBT ∧ after * oldBT < before * newBT + oldBT
    t.tx.shiftBits = s.tx.shiftBits ∧ t.tx.txFrameCycles = newBT * s.tx.shiftBits ∧
    (s.cfg.cycleExact = true → s.tx.breakTxCounter = 0 →
      kept (s.tx.txDoneAt - s.side.now) (t.tx.txDoneAt - t.side.now)) ∧
    (s.cfg.cycleExact = true → 0 < s.tx.breakTxCounter → kept s.tx.txFrozenRem t.tx.txFrozenRem) ∧
    (s.cfg.cycleExact = false →
      kept (s.tx.txFrameCycles - s.tx.txAccum) (t.tx.txFrameCycles - t.tx.txAccum))

/-! The transmit pipeline -/

/-- R64: a write while the shifter is busy is held; it replaces a waiting word, with a log, and nothing else changes. -/
def Obligations.WserdatIntoABusyShifterIsHeld : Prop :=
  ∀ (w : Reg) (s : State), s.tx.shiftState ≠ .empty →
    exec (.wserdat w) s = .next { s with
      tx := { s.tx with holding := w, dataPending := true }
      history := s.history ++ (if s.tx.dataPending then [eventEntry s (.log .holdingOverwritten)] else []) }

/-- R57, R58, R59, R64: a write with the shifter empty loads it, in full, for both frame sizes, every transport kind,
both timing modes and inside and outside a break window. -/
def Obligations.WserdatIntoAnEmptyShifterLoads : Prop :=
  ∀ (w : Reg) (s : State), s.tx.shiftState = .empty →
    let nine := s.baud.period.getLsbD 15
    let bits := if nine then 11 else 10
    let bitTime := s.baud.period.toNat % 2 ^ 15 + 1
    let frameCycles := bitTime * bits
    let due := s.side.now + frameCycles + s.par.propCycles
    let done := s.side.now + frameCycles
    let byte : Byte := BitVec.ofNat 8 w.toNat
    let bytes : List Byte :=
      if nine then [s.par.syncBase ||| (if w.getLsbD 8 then 1 else 0), byte]
      else if s.cfg.crlf = true ∧ byte = 0x0A ∧ s.tx.lastSent ≠ some 0x0D then [0x0D, 0x0A]
      else [byte]
    let echo : Reg := if nine then 0x0200 ||| (w &&& 0x01FF) else 0x0100 ||| (w &&& 0x00FF)
    let looped := s.session.transport = .loopback
    let live := s.cfg.cycleExact = true ∧ s.tx.breakTxCounter = 0
    let frozen := s.cfg.cycleExact = true ∧ 0 < s.tx.breakTxCounter
    exec (.wserdat w) s = .next { s with
      tx := { s.tx with
        holding := w
        dataPending := false
        shiftReg := w
        shiftBits := bits
        shiftState := .draining
        txBitTime := bitTime
        txFrameCycles := frameCycles
        txStartAt := s.side.now
        emitBuf := if looped then [] else bytes
        emitIdx := 0
        loopQueue := if looped then s.tx.loopQueue ++ [{ word := echo, due := due }] else s.tx.loopQueue
        txDoneAt := if live then done else s.tx.txDoneAt
        txFrozenRem := if frozen then frameCycles else s.tx.txFrozenRem }
      history := s.history ++ (if s.tx.dataPending then [eventEntry s (.log .holdingOverwritten)] else []) ++
        [eventEntry s .irqTBE] ++
        (if looped ∧ s.tx.loopQueue = [] then [eventEntry s (.schedule .loopbackRx due s.session.gen)] else []) ++
        (if live then [eventEntry s (.schedule .txDone done s.session.gen)] else []) }

/-- R65, R83, R99: a firing that fails one of its checks, the generation or its kind's predicate, is a no-op. -/
def Obligations.InvalidFiringIsNoOp : Prop :=
  ∀ s : State,
    (¬ (s.side.g = s.session.gen ∧ s.cfg.cycleExact = true ∧ s.tx.shiftState = .draining ∧ s.tx.breakTxCounter = 0 ∧
        s.tx.txDoneAt ≤ s.side.now) →
      exec .fireTxDone s = .next s) ∧
    (¬ (s.side.g = s.session.gen ∧ s.session.transport = .loopback ∧
        ∃ e rest, s.tx.loopQueue = e :: rest ∧ e.due ≤ s.side.now) →
      exec .fireLoopbackRx s = .next s)

/-- R60, R62, R63, R65: a frame that ends with no backend (None, Loopback, or one that is unavailable) and no waiting word
leaves the shifter empty with no oracle call and no event, in full: at a valid `TX_DONE` firing, at a quiet tick whose
cycles end it, and at a quiet tick on a stalled frame whose backend has become unavailable, in that tick's poll or
before (R94, R95; log 7). A quiet tick is one whose receiver takes nothing (`QuietTick`). -/
def Obligations.TxDoneWithoutBackendEndsTheFrame : Prop :=
  ∀ (i : Instr) (s r : State), HandsOver i s r →
    (r.session.transport = .none ∨ r.session.transport = .loopback ∨ r.session.available = false) →
    s.tx.dataPending = false →
    exec i s = .next { r with
      tx := { r.tx with
        lastSent := (if s.tx.emitBuf = [] then s.tx.lastSent else s.tx.emitBuf.getLast?)
        shiftState := .empty, shiftReg := 0, shiftBits := 0, txBitTime := 0, txFrameCycles := 0,
        emitBuf := [], emitIdx := 0, txAccum := 0 } }

/-- R61, R63: at a valid `TX_DONE` firing, at a quiet tick whose cycles end the frame, and at a quiet tick on a stalled
frame (`HandsOver`), an available backend is offered the bytes not yet written and no other: back-pressure and a partial
write leave the pipeline Stalled, in full. A retry offers no byte already written, and there is no limit on the
retries. -/
def Obligations.TxDoneUnderBackPressureStalls : Prop :=
  ∀ (i : Instr) (s r : State), HandsOver i s r → r.session.transport.external = true → r.session.available = true →
    let rest := s.tx.emitBuf.drop s.tx.emitIdx
    (∀ more, s.script.writeAvailables = .value false :: more →
      exec i s = .next { r with
        tx := { r.tx with shiftState := .stalled }
        script := { r.script with writeAvailables := more }
        draws := r.draws + 1
        history := r.history ++ [callEntry s (.writeAvailable rest.length (.value false))] }) ∧
    (∀ more n moreWrites, s.script.writeAvailables = .value true :: more → s.script.writes = .value n :: moreWrites →
      n < rest.length →
      exec i s = .next { r with
        tx := { r.tx with shiftState := .stalled, emitIdx := s.tx.emitIdx + n }
        script := { r.script with writeAvailables := more, writes := moreWrites }
        draws := r.draws + 2
        history := r.history ++ [callEntry s (.writeAvailable rest.length (.value true)),
          callEntry s (.write rest (.value n)), eventEntry s (.write rest n)] })

/-- R61, R62, R63, R95: at a valid `TX_DONE` firing, at a quiet tick whose cycles end the frame, and at a quiet tick on a
stalled frame (`HandsOver`), a full write on an available backend emits `Write` and ends the frame; a Failure, of
`T.writeAvailable` or of `T.write`, makes the backend unavailable, is logged, and ends the frame too (and then the
tick's receive step, which comes after, forgets no prefix: R73, R90). The end is that of R62: the waiting word is loaded
in full (`loadedTx`) and the excess of the accumulator is retained, or the line goes idle. -/
def Obligations.TxDoneOnABackendWritesTheFrame : Prop :=
  ∀ (i : Instr) (s r : State), HandsOver i s r → r.session.transport.external = true → r.session.available = true →
    s.tx.emitIdx ≤ s.tx.emitBuf.length →
    let rest := s.tx.emitBuf.drop s.tx.emitIdx
    (∀ more n moreWrites, s.script.writeAvailables = .value true :: more → s.script.writes = .value n :: moreWrites →
      rest.length ≤ n →
      exec i s = .next (frameEnded { r with
        script := { r.script with writeAvailables := more, writes := moreWrites }
        draws := r.draws + 2
        history := r.history ++ [callEntry s (.writeAvailable rest.length (.value true)),
          callEntry s (.write rest (.value rest.length)), eventEntry s (.write rest rest.length)] })) ∧
    (∀ more, s.script.writeAvailables = .failure :: more →
      exec i s = .next (frameEnded { r with
        rx := { r.rx with rxPrefix := s.rx.rxPrefix }
        session := { r.session with available := false }
        script := { r.script with writeAvailables := more }
        draws := r.draws + 1
        history := r.history ++ [callEntry s (.writeAvailable rest.length .failure),
          eventEntry s (.log .transportFailed)] })) ∧
    (∀ more moreWrites, s.script.writeAvailables = .value true :: more → s.script.writes = .failure :: moreWrites →
      exec i s = .next (frameEnded { r with
        rx := { r.rx with rxPrefix := s.rx.rxPrefix }
        session := { r.session with available := false }
        script := { r.script with writeAvailables := more, writes := moreWrites }
        draws := r.draws + 2
        history := r.history ++ [callEntry s (.writeAvailable rest.length (.value true)),
          callEntry s (.write rest .failure), eventEntry s (.log .transportFailed)] }))

/-- R57, R58, R59, R62, R63: a frame that ends while a word waits loads that word, in full: with no backend (None,
Loopback, or one that is unavailable), at a valid `TX_DONE` firing, at a quiet tick whose cycles end the frame (the
excess is retained for the new one) and at a quiet tick on a stalled frame (`HandsOver`; log 7). The word starts at the
stimulus's cycle and takes the period of now, its bytes or its echo, its deadline, and `IrqTBE`; the frame's end calls
no oracle. -/
def Obligations.FrameEndPullsTheWaitingWord : Prop :=
  ∀ (i : Instr) (s r : State), HandsOver i s r →
    (r.session.transport = .none ∨ r.session.transport = .loopback ∨ r.session.available = false) →
    s.tx.dataPending = true →
    let w := s.tx.holding
    let nine := s.baud.period.getLsbD 15
    let bits := if nine then 11 else 10
    let bitTime := s.baud.period.toNat % 2 ^ 15 + 1
    let frameCycles := bitTime * bits
    let due := s.side.now + frameCycles + s.par.propCycles
    let done := s.side.now + frameCycles
    let byte : Byte := BitVec.ofNat 8 w.toNat
    let last := if s.tx.emitBuf = [] then s.tx.lastSent else s.tx.emitBuf.getLast?
    let bytes : List Byte :=
      if nine then [s.par.syncBase ||| (if w.getLsbD 8 then 1 else 0), byte]
      else if s.cfg.crlf = true ∧ byte = 0x0A ∧ last ≠ some 0x0D then [0x0D, 0x0A]
      else [byte]
    let echo : Reg := if nine then 0x0200 ||| (w &&& 0x01FF) else 0x0100 ||| (w &&& 0x00FF)
    let looped := s.session.transport = .loopback
    let live := s.cfg.cycleExact = true ∧ s.tx.breakTxCounter = 0
    let frozen := s.cfg.cycleExact = true ∧ 0 < s.tx.breakTxCounter
    exec i s = .next { r with
      tx := { r.tx with
        dataPending := false
        shiftReg := w
        shiftBits := bits
        shiftState := .draining
        txBitTime := bitTime
        txFrameCycles := frameCycles
        txStartAt := s.side.now
        emitBuf := if looped then [] else bytes
        emitIdx := 0
        lastSent := last
        loopQueue := if looped then s.tx.loopQueue ++ [{ word := echo, due := due }] else s.tx.loopQueue
        txDoneAt := if live then done else s.tx.txDoneAt
        txFrozenRem := if frozen then frameCycles else s.tx.txFrozenRem }
      history := r.history ++ [eventEntry s .irqTBE] ++
        (if looped ∧ s.tx.loopQueue = [] then [eventEntry s (.schedule .loopbackRx due s.session.gen)] else []) ++
        (if live then [eventEntry s (.schedule .txDone done s.session.gen)] else []) }

/-- R67: the forms of `SETBRK`, in full. -/
def Obligations.SetbrkStartsAtMostOneWindow : Prop :=
  ∀ s : State,
    decode 0x60000000 = .ok .setbrk ∧
    (s.tx.txBreakAsserted = true → exec .setbrk s = .next s) ∧
    (s.tx.txBreakAsserted = false → 0 < s.tx.breakTxCounter →
      exec .setbrk s = .next { s with
        tx := { s.tx with txBreakAsserted := true }
        history := s.history ++ [eventEntry s (.log .breakOn)] }) ∧
    (s.tx.txBreakAsserted = false → s.tx.breakTxCounter = 0 →
      exec .setbrk s = .next { s with
        tx := { s.tx with
          txBreakAsserted := true
          breakTxCounter := s.par.breakTxLines
          txFrozenRem := (if s.cfg.cycleExact = true ∧ s.tx.shiftState = .draining
            then s.tx.txDoneAt - s.side.now else s.tx.txFrozenRem) }
        history := s.history ++ [eventEntry s (.log .breakOn)] })

/-- R68: `CLRBRK`, in full: it ends no window. -/
def Obligations.ClrbrkOnlyRearms : Prop :=
  ∀ s : State, decode 0x70000000 = .ok .clrbrk ∧
    exec .clrbrk s = .next { s with
      tx := { s.tx with txBreakAsserted := false }
      history := s.history ++ [eventEntry s (.log .breakOff)] }

/-- R69: the tick that ends a break window in cycle-exact mode resumes the frozen frame where it stopped: what remained
is counted from that tick, and the callback is scheduled anew. -/
def Obligations.BreakWindowEndResumesTheFrame : Prop :=
  ∀ (lc : Nat) (s : State), s.cfg.cycleExact = true → s.tx.shiftState = .draining → s.tx.breakTxCounter = 1 →
    ∃ t, exec (.tick lc) s = .next t ∧ t.tx = { s.tx with
        breakTxCounter := 0, txDoneAt := s.side.now + s.tx.txFrozenRem, txFrozenRem := 0 } ∧
      lastSchedule .txDone t.history = some (s.side.now + s.tx.txFrozenRem, s.session.gen)

/-! The receive pipeline -/

/-- R46: the layout of the word that `RSERDATR` returns. -/
def Obligations.SerdatrBitsAreTheFlags : Prop :=
  ∀ s : State, ∃ w : Reg, (∃ t, exec .rserdatr s = .next t ∧ t.returned = s.returned ++ [.serdatr w]) ∧
    w.getLsbD 15 = s.rx.overrun ∧ w.getLsbD 14 = s.rx.rbf ∧ w.getLsbD 13 = !s.tx.dataPending ∧
    (w.getLsbD 12 = true ↔ s.tx.shiftState = .empty) ∧ (w.getLsbD 11 = true ↔ s.rx.breakCounter = 0) ∧
    w.getLsbD 10 = false ∧ ∀ i, i < 10 → w.getLsbD i = s.rx.receiveReg.getLsbD i

/-- R81, R105: a read, in full: RBF and the unread count cleared, a sticky interrupt re-asserted, nothing else. -/
def Obligations.RserdatrClearsRbfAndReassertsSticky : Prop :=
  ∀ s : State, exec .rserdatr s = .next { s with
    rx := { s.rx with rbf := false, unreadLines := 0 }
    irq := (if s.irq.stickyRbf then { rbfUnacked := true, stickyRbf := false } else s.irq)
    history := s.history ++ (if s.irq.stickyRbf then [eventEntry s .irqRBF] else [])
    returned := s.returned ++ [.serdatr (serdatrWord s)] }

/-- R82: `ACKRBF`, in full. -/
def Obligations.AckrbfClearsOverrunAndUnacked : Prop :=
  ∀ s : State, decode 0x80000000 = .ok .ackrbf ∧
    exec .ackrbf s = .next { s with
      irq := { s.irq with rbfUnacked := false }
      rx := { s.rx with overrun := false } }

/-- R79, R83, R105: a valid firing delivers the head of the queue, in full, into the empty register (with the interrupt
or its sticky form) or into the receive queue (dropped with a log when that is full), and schedules the next echo. -/
def Obligations.LoopbackFiringDeliversOneEcho : Prop :=
  ∀ (s : State) (e : Echo) (rest : List Echo), s.side.g = s.session.gen → s.session.transport = .loopback →
    s.tx.loopQueue = e :: rest → e.due ≤ s.side.now →
    let room := s.rx.receiveQueue.length < s.par.rxQueueCap
    exec .fireLoopbackRx s = .next { s with
      tx := { s.tx with loopQueue := rest }
      rx := (if s.rx.rbf then
          (if room then { s.rx with receiveQueue := s.rx.receiveQueue ++ [e.word] } else s.rx)
        else { s.rx with receiveReg := e.word &&& 0x03FF, rbf := true, unreadLines := 0 })
      irq := (if s.rx.rbf then s.irq
        else if s.irq.rbfUnacked then { s.irq with stickyRbf := true } else { s.irq with rbfUnacked := true })
      history := s.history ++
        (if s.rx.rbf then (if room then [] else [eventEntry s (.log .rxQueueOverflow)])
          else if s.irq.rbfUnacked then [] else [eventEntry s .irqRBF]) ++
        (match rest with
          | [] => []
          | e' :: _ => [eventEntry s (.schedule .loopbackRx (max e'.due s.side.now) s.session.gen)]) }

/-- R57, R59, R83: the loopback round trip: a word written at `s.side.now` into an idle loopback session is in the
register at a firing `txPeriodCycles + PROP_CYCLES` cycles later, and not before. -/
def Obligations.LoopbackRoundTripTakesPeriodPlusPropagation : Prop :=
  ∀ (w : Reg) (s s1 : State) (later : Nat), Inv s → s.session.transport = .loopback → s.tx.shiftState = .empty →
    s.tx.loopQueue = [] → s.rx.rbf = false → exec (.wserdat w) s = .next s1 →
    let s2 := { s1 with side := { s1.side with now := later, g := s.session.gen } }
    let due := s.side.now + s.baud.txPeriodCycles + s.par.propCycles
    lastSchedule .loopbackRx s1.history = some (due, s.session.gen) ∧
    (later < due → exec .fireLoopbackRx s2 = .next s2) ∧
    (due ≤ later → ∃ t, exec .fireLoopbackRx s2 = .next t ∧ t.rx.rbf = true ∧ t.tx.loopQueue = [] ∧
      t.rx.receiveReg = if s.baud.period.getLsbD 15 then 0x0200 ||| (w &&& 0x01FF) else 0x0100 ||| (w &&& 0x00FF))

/-! The tick -/

/-- R69, R90, R91, R93: every tick completes; the receive accumulator crosses at most once, the break window counts down
by one, and what the tick's steps do not name is unchanged. -/
def Obligations.TickAdvancesTheTimers : Prop :=
  ∀ (lc : Nat) (s : State), ∃ t, exec (.tick lc) s = .next t ∧
    t.rx.rxAccum = (if s.rx.rxAccum + lc ≥ s.baud.rxPeriodCycles
      then s.rx.rxAccum + lc - s.baud.rxPeriodCycles else s.rx.rxAccum + lc) ∧
    t.tx.breakTxCounter = s.tx.breakTxCounter - 1 ∧
    t.baud = s.baud ∧ t.lines = s.lines ∧ t.cfg = s.cfg ∧ t.returned = s.returned ∧
    t.session.transport = s.session.transport ∧ t.session.gen = s.session.gen ∧
    t.tx.holding = s.tx.holding ∧ t.tx.txBreakAsserted = s.tx.txBreakAsserted ∧
    (s.session.transport ≠ .loopback → t.tx.loopQueue = s.tx.loopQueue) ∧
    (s.cfg.cycleExact = true → s.tx.shiftState ≠ .stalled → t.tx.shiftState = s.tx.shiftState ∧
      t.tx.txAccum = s.tx.txAccum)

/-- R93 (corner case 2) with R73, R80, R91: a tick on a session with no backend, nothing in the shifter, no break and
nothing queued, in full. -/
def Obligations.TickOnAnIdleClosedSession : Prop :=
  ∀ (lc : Nat) (s : State), s.session.transport = .none → s.tx.shiftState = .empty → s.tx.breakTxCounter = 0 →
    s.rx.breakCounter = 0 → s.rx.receiveQueue = [] →
    exec (.tick lc) s = .next { s with
      rx := { s.rx with
        unreadLines := 0
        rxAccum := (if s.rx.rxAccum + lc ≥ s.baud.rxPeriodCycles
          then s.rx.rxAccum + lc - s.baud.rxPeriodCycles else s.rx.rxAccum + lc) } }

/-- R60, R62, R63: outside cycle-exact mode, on every transport and with or without a waiting word, the tick adds its
cycles to a draining frame; in a break window it adds nothing. At the crossing at most one frame ends, however large the
excess, and with no backend (None, Loopback, or one that is unavailable) it ends as `frameEnded` says: a waiting word is
loaded and the excess retained for it, else the line goes idle. On an available backend O30 and O31 give the crossing of
a quiet tick. -/
def Obligations.TickDrainsTheFrameByItsCycles : Prop :=
  ∀ (lc : Nat) (s : State), s.cfg.cycleExact = false → s.tx.shiftState = .draining →
    let crossed : State := { s with tx := { s.tx with txAccum := s.tx.txAccum + lc - s.tx.txFrameCycles } }
    ∃ t, exec (.tick lc) s = .next t ∧
      (0 < s.tx.breakTxCounter → t.tx = { s.tx with breakTxCounter := s.tx.breakTxCounter - 1 }) ∧
      (s.tx.breakTxCounter = 0 → s.tx.txAccum + lc < s.tx.txFrameCycles →
        t.tx = { s.tx with txAccum := s.tx.txAccum + lc }) ∧
      (s.tx.breakTxCounter = 0 → s.tx.txFrameCycles ≤ s.tx.txAccum + lc →
        (s.session.transport = .none ∨ s.session.transport = .loopback ∨ s.session.available = false) →
        t.tx = (frameEnded crossed).tx)

/-- R72, R73, R74, R76, R77, R79, R83, R93, R95, R96: a receive step takes at most one word (`Receives`: the gate open,
the register empty or intake forced, also where the poll reports a break, and with the transmitter idle, draining,
frozen or stalled). On every transport a queued word enters the empty register first, in both frame sizes, and no byte is
read; this is how a queued echo reaches the register. Else, with no backend, nothing is taken. On a backend, in 8-bit
mode, one byte is read, and delivered with its stop bit (`delivered`), or dropped where it is 0x0A under `crlf`; a read
of nothing takes nothing; a Failure makes the backend unavailable and is logged. -/
def Obligations.TickReceivesOneByte : Prop :=
  ∀ (lc count : Nat) (s r : State), Receives lc count s r →
    let read (answer : Answer (List Byte)) (reads : List (Answer (List Byte))) : State := { r with
      rx := { r.rx with rxPrefix := none }
      script := { r.script with reads := reads }
      draws := r.draws + 1
      history := r.history ++ [callEntry s (.read 1 answer)] }
    (∀ w rest, s.rx.rbf = false → s.rx.receiveQueue = w :: rest →
      exec (.tick lc) s = .next (delivered w { r with rx := { r.rx with receiveQueue := rest } })) ∧
    (s.rx.rbf = true ∨ s.rx.receiveQueue = [] →
      (r.session.transport.external = false ∨ r.session.available = false) → exec (.tick lc) s = .next r) ∧
    (s.rx.rbf = true ∨ s.rx.receiveQueue = [] → s.baud.period.getLsbD 15 = false →
      (count = 0 → r.session.transport.external = true → r.session.available = true →
        exec (.tick lc) s = .next { r with rx := { r.rx with rxPrefix := none } }) ∧
      (∀ b bs reads, 0 < count → s.script.reads = .value (b :: bs) :: reads →
        exec (.tick lc) s = .next (if s.cfg.crlf = true ∧ b = 0x0A then read (.value [b]) reads
          else delivered (0x0100 ||| b.setWidth 16) (read (.value [b]) reads))) ∧
      (∀ reads, 0 < count → s.script.reads = .value [] :: reads →
        exec (.tick lc) s = .next (read (.value []) reads)) ∧
      (∀ reads, 0 < count → s.script.reads = .failure :: reads →
        exec (.tick lc) s = .next { read .failure reads with
          session := { s.session with available := false }
          history := (read .failure reads).history ++ [eventEntry s (.log .transportFailed)] }))

/-- R72, R73, R74, R78, R79, R95: a 9-bit receive step takes at most one frame, with the gate open, the register empty or
intake forced, and the transmitter idle, draining, frozen or stalled (`Receives`). The first byte is checked against the
sync pattern: a mismatch is dropped and logged, and no second byte is read; a match with no byte behind it leaves the
accepted prefix waiting; a match followed by a data byte delivers both as one word, and so does a data byte behind a
prefix that waits. A read of nothing, at the prefix or at the data byte, takes nothing; a Failure makes the backend
unavailable and is logged; in both, an accepted prefix is kept. -/
def Obligations.TickReceivesANineBitFrame : Prop :=
  ∀ (lc count : Nat) (s r : State), Receives lc count s r → s.rx.rbf = true ∨ s.rx.receiveQueue = [] →
    s.baud.period.getLsbD 15 = true →
    let word (n : Bool) (d : Byte) : Reg := 0x0200 ||| (if n then 0x0100 else 0) ||| d.setWidth 16
    let read (kept : Option Bool) (answers reads : List (Answer (List Byte))) : State := { r with
      rx := { r.rx with rxPrefix := kept }
      script := { r.script with reads := reads }
      draws := r.draws + answers.length
      history := r.history ++ answers.map (fun a => callEntry s (.read 1 a)) }
    let failing (t : State) : State := { t with
      session := { t.session with available := false }
      history := t.history ++ [eventEntry s (.log .transportFailed)] }
    (count = 0 → exec (.tick lc) s = .next r) ∧
    (s.rx.rxPrefix = none →
      (∀ reads, 0 < count → s.script.reads = .value [] :: reads →
        exec (.tick lc) s = .next (read none [.value []] reads)) ∧
      (∀ reads, 0 < count → s.script.reads = .failure :: reads →
        exec (.tick lc) s = .next (failing (read none [.failure] reads))) ∧
      (∀ p reads, 0 < count → s.script.reads = .value [p] :: reads → p &&& 0xFE ≠ s.par.syncBase →
        let dropped := read none [.value [p]] reads
        exec (.tick lc) s = .next { dropped with
          history := dropped.history ++ [eventEntry s (.log .frameDesync)] }) ∧
      (∀ p reads, count = 1 → s.script.reads = .value [p] :: reads → p &&& 0xFE = s.par.syncBase →
        exec (.tick lc) s = .next (read (some (p.getLsbD 0)) [.value [p]] reads)) ∧
      (∀ p reads, 1 < count → s.script.reads = .value [p] :: .value [] :: reads → p &&& 0xFE = s.par.syncBase →
        exec (.tick lc) s = .next (read (some (p.getLsbD 0)) [.value [p], .value []] reads)) ∧
      (∀ p reads, 1 < count → s.script.reads = .value [p] :: .failure :: reads → p &&& 0xFE = s.par.syncBase →
        exec (.tick lc) s = .next (failing (read (some (p.getLsbD 0)) [.value [p], .failure] reads))) ∧
      (∀ p d reads, 1 < count → s.script.reads = .value [p] :: .value [d] :: reads → p &&& 0xFE = s.par.syncBase →
        exec (.tick lc) s = .next (delivered (word (p.getLsbD 0) d) (read none [.value [p], .value [d]] reads)))) ∧
    (∀ n, s.rx.rxPrefix = some n →
      (∀ reads, 0 < count → s.script.reads = .value [] :: reads →
        exec (.tick lc) s = .next (read (some n) [.value []] reads)) ∧
      (∀ reads, 0 < count → s.script.reads = .failure :: reads →
        exec (.tick lc) s = .next (failing (read (some n) [.failure] reads))) ∧
      (∀ d reads, 0 < count → s.script.reads = .value [d] :: reads →
        exec (.tick lc) s = .next (delivered (word n d) (read none [.value [d]] reads))))

/-- R80, R93, R95: with the register full, no forcing, and data waiting, the tick counts; the 200th flushes the backend,
sets OVRUN, clears the stale word and logs `Overrun`. A Failure of the flush makes the backend unavailable and is logged;
that it does not stop the overrun is the model's reading (log 9). -/
def Obligations.TickForcesTheOverrunAt200 : Prop :=
  ∀ (lc count : Nat) (brk : Bool) (s : State) (polls : List (Answer (Nat × Bool))),
    s.session.transport.external = true → s.session.available = true → s.rx.rbf = true →
    s.cfg.cycleExact = false → s.cfg.safeReceive = false → s.cfg.overrunForced = false →
    s.cfg.extDevForced = false → s.rx.receiveQueue = [] → 0 < count →
    s.script.readAvailables = .value (count, brk) :: polls →
    ∃ t, exec (.tick lc) s = .next t ∧
      (s.rx.unreadLines + 1 < 200 →
        t.rx.unreadLines = s.rx.unreadLines + 1 ∧ t.rx.rbf = true ∧ t.rx.overrun = s.rx.overrun ∧
          t.rx.receiveReg = s.rx.receiveReg ∧ t.irq = s.irq) ∧
      (200 ≤ s.rx.unreadLines + 1 →
        t.rx.overrun = true ∧ t.rx.receiveReg = 0 ∧ t.rx.rbf = false ∧ t.rx.unreadLines = 0 ∧ t.rx.rxPrefix = none ∧
          t.irq = s.irq ∧ ∃ new, t.history = s.history ++ new ∧ eventEntry s .flush ∈ new ∧
            eventEntry s (.log .overrun) ∈ new ∧
            ∀ more, s.script.flushes = .failure :: more → t.session.available = false ∧
              eventEntry s (.log .transportFailed) ∈ new)

/-- R19, R73, R74, R75, R96: what moves the receive break counter, when, and with which log. Only a tick moves it. From
clear it goes to detecting at exactly the receive steps whose poll reports a break (`BreakReported`). The next receive
step, and no tick before it, ends detecting: the hold begins, one tick of which is already counted down, and a waiting
prefix is forgotten. While holding it counts down by one a tick, to clear. In a tick that begins detecting or holding no
byte is taken: no `T.read` is called, nothing enters the register or the queue, and no receive interrupt is raised; the
register can only lose its word to an overrun (R80). -/
def Obligations.BreakCounterMovesThroughDetectHoldClear : Prop :=
  ∀ (i : Instr) (s t : State), ReceiverInv s → exec i s = .next t → i ≠ .openSession → i ≠ .closeSession →
    ((∀ lc, i ≠ .tick lc) → t.rx.breakCounter = s.rx.breakCounter ∧ t.rx.breakDelay = s.rx.breakDelay) ∧
    (∀ lc, i = .tick lc → ∃ new, t.history = s.history ++ new ∧
      (s.rx.breakCounter = 0 →
        (Crosses lc s ∧ BreakReported s → t.rx.breakCounter = -1 ∧ t.rx.breakDelay = 1) ∧
        (¬ (Crosses lc s ∧ BreakReported s) → t.rx.breakCounter = 0)) ∧
      (s.rx.breakCounter < 0 →
        (Crosses lc s → t.rx.breakCounter = ((s.par.breakRxLines - 1 : Nat) : Int) ∧ t.rx.breakDelay = 0 ∧
          t.rx.rxPrefix = none) ∧
        (¬ Crosses lc s → t.rx.breakCounter = -1 ∧ t.rx.breakDelay = 1)) ∧
      (0 < s.rx.breakCounter → t.rx.breakCounter = s.rx.breakCounter - 1) ∧
      (eventEntry s (.log .breakDetected) ∈ new ↔ s.rx.breakCounter = 0 ∧ Crosses lc s ∧ BreakReported s) ∧
      (eventEntry s (.log .breakHold) ∈ new ↔ s.rx.breakCounter < 0 ∧ Crosses lc s) ∧
      (eventEntry s (.log .breakClear) ∈ new ↔
        s.rx.breakCounter = 1 ∨ s.rx.breakCounter < 0 ∧ Crosses lc s ∧ s.par.breakRxLines = 1) ∧
      (s.rx.breakCounter ≠ 0 →
        t.rx.receiveQueue = s.rx.receiveQueue ∧ t.irq = s.irq ∧ t.script.reads = s.script.reads ∧
        (t.rx.receiveReg = s.rx.receiveReg ∧ t.rx.rbf = s.rx.rbf ∨
          s.rx.rbf = true ∧ t.rx.rbf = false ∧ t.rx.receiveReg = 0 ∧ t.rx.overrun = true) ∧
        ∀ e ∈ new, e.record ≠ .event .irqRBF ∧ ∀ k a, e.record ≠ .call (.read k a)))

/-- R96, R73, R74: on Loopback the transmitter's break output is detected by a receive step, without an oracle call, and
RXD then reads 0. -/
def Obligations.LoopbackBreakReachesTheDetector : Prop :=
  ∀ (lc : Nat) (s : State), SessionInv s → s.session.transport = .loopback → 0 < s.tx.breakTxCounter →
    s.rx.breakCounter = 0 → s.baud.rxPeriodCycles ≤ s.rx.rxAccum + lc →
    ∃ t, exec (.tick lc) s = .next t ∧ t.rx.breakCounter = -1 ∧ t.rx.breakDelay = 1 ∧ t.draws = s.draws ∧
      (∃ new, t.history = s.history ++ new ∧ eventEntry s (.log .breakDetected) ∈ new) ∧
      (serdatrWord t).getLsbD 11 = false

/-- R106: a tick raises at most one `IrqTBE` and at most one `IrqRBF`, and every transmit event comes before every receive
event; a `FIRE` raises at most one interrupt, and only of its own kind. "Each failure path ends the operation's use of the
transport": in one stimulus no call follows one that failed, and at most one Failure is logged. No stimulus reports two
error codes, but for a tick that forces an overrun and whose flush or write fails: there the pseudocode of R80, R90 and
R95 logs two, and the model follows it (log 9). -/
def Obligations.TickInterruptsAreBoundedAndOrdered : Prop :=
  ∀ (i : Instr) (s t : State), exec i s = .next t →
    ∃ first second, t.history = s.history ++ (first ++ second) ∧
      ((first ++ second).countP Entry.isErrorCode ≤ 1 ∨
        (∃ lc, i = .tick lc) ∧ (first ++ second).countP Entry.isErrorCode = 2 ∧
          eventEntry s (.log .overrun) ∈ first ++ second ∧ eventEntry s (.log .transportFailed) ∈ first ++ second) ∧
      countEvent (.log .transportFailed) (first ++ second) ≤ 1 ∧
      (∀ before call after, first ++ second = before ++ call :: after → call.isFailedCall = true →
        ∀ x ∈ after, x.isCall = false) ∧
      (∀ lc, i = .tick lc →
        first.all (fun x => !x.isReceive) = true ∧ second.all (fun x => !x.isTransmit) = true ∧
        countEvent .irqTBE first ≤ 1 ∧ countEvent .irqRBF second ≤ 1) ∧
      (i = .fireTxDone → countEvent .irqTBE (first ++ second) ≤ 1 ∧ countEvent .irqRBF (first ++ second) = 0) ∧
      (i = .fireLoopbackRx → countEvent .irqRBF (first ++ second) ≤ 1 ∧ countEvent .irqTBE (first ++ second) = 0)

/-! Control lines -/

/-- R85, R88: `RSTATUS` returns the byte of the line levels it read and keeps the levels; with no connected line
mechanism no oracle is called. -/
def Obligations.RstatusWithoutAConnectedBackend : Prop :=
  ∀ (dir cur : Byte) (s : State),
    ¬ ((s.session.transport = .realDevice ∨ s.session.transport = .sharedMemoryIpc) ∧ s.session.available = true) →
    let l : LineLevels :=
      if s.session.transport = .loopback then { dsr := s.lines.dtrOut, cts := s.lines.rtsOut, cd := true, ri := true }
      else { dsr := true, cd := true, cts := true, ri := true }
    exec (.rstatus dir cur) s = .next { s with
      lines := { s.lines with linesIn := l }
      returned := s.returned ++ [.status (statusByte dir cur s.cfg.riOnSel l)] }

/-- R85, R88, R95: on a connected backend `RSTATUS` calls `getLineStatus` once; a Failure makes the backend unavailable
and reads as all asserted. -/
def Obligations.RstatusOnAConnectedBackend : Prop :=
  ∀ (dir cur : Byte) (s : State) (more : List (Answer LineLevels)),
    (s.session.transport = .realDevice ∨ s.session.transport = .sharedMemoryIpc) → s.session.available = true →
    (∀ l, s.script.getLineStatuses = .value l :: more →
      exec (.rstatus dir cur) s = .next { s with
        lines := { s.lines with linesIn := l }
        script := { s.script with getLineStatuses := more }
        draws := s.draws + 1
        history := s.history ++ [callEntry s (.getLineStatus (.value l))]
        returned := s.returned ++ [.status (statusByte dir cur s.cfg.riOnSel l)] }) ∧
    (s.script.getLineStatuses = .failure :: more →
      let l : LineLevels := { dsr := true, cd := true, cts := true, ri := true }
      exec (.rstatus dir cur) s = .next { s with
        lines := { s.lines with linesIn := l }
        session := { s.session with available := false }
        script := { s.script with getLineStatuses := more }
        draws := s.draws + 1
        history := s.history ++ [callEntry s (.getLineStatus .failure), eventEntry s (.log .transportFailed)]
        returned := s.returned ++ [.status (statusByte dir cur s.cfg.riOnSel l)] })

/-- R47, R87, R88: the status byte: an input line reads 0 when asserted; a bit whose direction bit is 1, and bits 7, 6,
1 and 0, and bit 2 without `riOnSel`, are the host's. -/
def Obligations.StatusByteReportsTheInputLines : Prop :=
  ∀ (dir cur : Byte) (ri : Bool) (l : LineLevels),
    let r := statusByte dir cur ri l
    r.getLsbD 5 = (if dir.getLsbD 5 then cur.getLsbD 5 else !l.cd) ∧
    r.getLsbD 4 = (if dir.getLsbD 4 then cur.getLsbD 4 else !l.cts) ∧
    r.getLsbD 3 = (if dir.getLsbD 3 then cur.getLsbD 3 else !l.dsr) ∧
    r.getLsbD 2 = (if ri = true ∧ dir.getLsbD 2 = false then !l.ri else cur.getLsbD 2) ∧
    ∀ i, i = 0 ∨ i = 1 ∨ i = 6 ∨ i = 7 → r.getLsbD i = cur.getLsbD i

/-- R89: a write that changes neither line does nothing; a change is kept and, on a kind without a connected line
mechanism, forwarded to nobody. -/
def Obligations.WstatusWithoutForwarding : Prop :=
  ∀ (dir val : Byte) (s : State),
    let d := if dir.getLsbD 7 then !val.getLsbD 7 else s.lines.dtrOut
    let r := if dir.getLsbD 6 then !val.getLsbD 6 else s.lines.rtsOut
    (d = s.lines.dtrOut → r = s.lines.rtsOut → exec (.wstatus dir val) s = .next s) ∧
    (¬ (d = s.lines.dtrOut ∧ r = s.lines.rtsOut) →
      ¬ ((s.session.transport = .realDevice ∨ s.session.transport = .sharedMemoryIpc) ∧ s.session.available = true) →
      exec (.wstatus dir val) s = .next { s with lines := { s.lines with dtrOut := d, rtsOut := r } })

/-- R89, R95: a change on a connected backend is forwarded by one call; a Failure makes the backend unavailable and
emits no `SetLines`. -/
def Obligations.WstatusForwardsAChange : Prop :=
  ∀ (dir val : Byte) (s : State) (more : List (Answer Unit)),
    let d := if dir.getLsbD 7 then !val.getLsbD 7 else s.lines.dtrOut
    let r := if dir.getLsbD 6 then !val.getLsbD 6 else s.lines.rtsOut
    ¬ (d = s.lines.dtrOut ∧ r = s.lines.rtsOut) →
    (s.session.transport = .realDevice ∨ s.session.transport = .sharedMemoryIpc) → s.session.available = true →
    (s.script.setLineStatuses = .value () :: more →
      exec (.wstatus dir val) s = .next { s with
        lines := { s.lines with dtrOut := d, rtsOut := r }
        script := { s.script with setLineStatuses := more }
        draws := s.draws + 1
        history := s.history ++ [callEntry s (.setLineStatus d r (.value ())), eventEntry s (.setLines d r)] }) ∧
    (s.script.setLineStatuses = .failure :: more →
      exec (.wstatus dir val) s = .next { s with
        lines := { s.lines with dtrOut := d, rtsOut := r }
        session := { s.session with available := false }
        script := { s.script with setLineStatuses := more }
        draws := s.draws + 1
        history := s.history ++ [callEntry s (.setLineStatus d r .failure), eventEntry s (.log .transportFailed)] })

/-! The session -/

/-- R98, R100: `OPEN` of a None token or of the Loopback token calls no oracle, resets every field, takes the given
configuration and a new generation, and returns `ok`. -/
def Obligations.OpenWithoutABackendCall : Prop :=
  ∀ s : State,
    (select s.par s.side.name = .none →
      exec .openSession s = .next { s with
        baud := .reset s.par, tx := .reset, rx := .reset, irq := .reset, lines := .reset, cfg := s.side.cfg
        session := { transport := .none, available := false, gen := s.session.gen + 1 }
        history := s.history ++ [eventEntry s (.log .noDevice)]
        returned := s.returned ++ [.openOk] }) ∧
    (select s.par s.side.name = .loopback →
      exec .openSession s = .next { s with
        baud := .reset s.par, tx := .reset, rx := .reset, irq := .reset, lines := .reset, cfg := s.side.cfg
        session := { transport := .loopback, available := true, gen := s.session.gen + 1 }
        history := s.history ++ [eventEntry s (.log .opened)]
        returned := s.returned ++ [.openOk] })

/-- R100: `OPEN` of any other name calls `T.open` once; `ok` attaches the backend, `failed` (and a Failure of the call,
log 8) falls back to no device, logged, with the result `failed`. -/
def Obligations.OpenOfABackend : Prop :=
  ∀ (s : State) (a : OpenAnswer) (more : List OpenAnswer), (select s.par s.side.name).external = true →
    s.script.opens = a :: more →
    exec .openSession s = .next { s with
      baud := .reset s.par, tx := .reset, rx := .reset, irq := .reset, lines := .reset, cfg := s.side.cfg
      session := { transport := (if a = .ok then select s.par s.side.name else .none), available := decide (a = .ok),
                   gen := s.session.gen + 1 }
      script := { s.script with opens := more }
      draws := s.draws + 1
      history := s.history ++ [callEntry s (.opened (select s.par s.side.name) a),
        eventEntry s (.log (if a = .ok then .opened else .openFailed))]
      returned := s.returned ++ [if a = .ok then .openOk else .openFailed] }

/-- R98: whole tokens come before prefixes, in the order of the rule, and anything else is a real device. -/
def Obligations.SelectFollowsTheOrderOfTheRule : Prop :=
  ∀ (p : Params) (name : Name),
    (name = p.shmToken → select p name = .sharedMemoryIpc) ∧
    (name ≠ p.shmToken → name = p.loopToken → select p name = .loopback) ∧
    (name ≠ p.shmToken → name ≠ p.loopToken → name ∈ p.noneTokens → select p name = .none) ∧
    (name ≠ p.shmToken → name ≠ p.loopToken → name ∉ p.noneTokens →
      (p.relayPrefix <+: name → select p name = .networkRelay) ∧
      (¬ p.relayPrefix <+: name → p.tcpPrefix <+: name → select p name = .tcpSocket) ∧
      (¬ p.relayPrefix <+: name → ¬ p.tcpPrefix <+: name → p.midiPrefix <+: name → select p name = .midi) ∧
      (¬ p.relayPrefix <+: name → ¬ p.tcpPrefix <+: name → ¬ p.midiPrefix <+: name →
        select p name = .realDevice))

/-- R101: `CLOSE`, in full: every field reset and a new generation; no oracle call. -/
def Obligations.CloseResetsEveryField : Prop :=
  ∀ s : State, decode 0xC0000000 = .ok .closeSession ∧
    exec .closeSession s = .next { s with
      baud := { period := 0, periodSet := false, appliedBaud := 0, txPeriodCycles := 10,
                rxPeriodCycles := max 2 s.par.lineCycles }
      tx := .reset, rx := .reset, irq := .reset, lines := .reset, cfg := SessionCfg.default
      session := { transport := .none, available := false, gen := s.session.gen + 1 }
      history := s.history ++ [eventEntry s (.log .closed)] }

/-- R13, R115, R116: the state after reset, in the values the spec gives, with legal parameters (log 2) and empty outputs
(log 10), and what `RSERDATR` returns there. -/
def Obligations.ResetIsTheClosedState : Prop :=
  let s := State.reset
  s.baud = { period := 0, periodSet := false, appliedBaud := 0, txPeriodCycles := 10,
             rxPeriodCycles := max 2 s.par.lineCycles } ∧
  s.tx = { holding := 0, dataPending := false, shiftReg := 0, shiftBits := 0, shiftState := .empty, txBitTime := 0,
           txFrameCycles := 0, txStartAt := 0, txDoneAt := 0, txAccum := 0, emitBuf := [], emitIdx := 0,
           lastSent := none, txBreakAsserted := false, breakTxCounter := 0, txFrozenRem := 0, loopQueue := [] } ∧
  s.rx = { receiveReg := 0, rbf := false, overrun := false, breakCounter := 0, breakDelay := 0, rxAccum := 0,
           rxPrefix := none, receiveQueue := [], unreadLines := 0 } ∧
  s.irq = { rbfUnacked := false, stickyRbf := false } ∧
  s.lines = { dtrOut := false, rtsOut := false, linesIn := { dsr := false, cd := false, cts := false, ri := false } } ∧
  s.session = { transport := .none, available := false, gen := 0 } ∧
  s.cfg = SessionCfg.default ∧ s.history = [] ∧ s.returned = [] ∧ s.par.legal = true ∧
  ∃ t, exec .rserdatr s = .next t ∧ t.returned = [.serdatr 0x3800]

/-! Frames of the families -/

/-- The transmit stimuli leave the receiver, its interrupt bookkeeping and the lines alone (R55, R64, R65, R67, R68). -/
def Obligations.TransmitStimuliLeaveTheReceiver : Prop :=
  ∀ (i : Instr) (s t : State), exec i s = .next t →
    ((∃ w, i = .wserper w) ∨ (∃ w, i = .wserdat w) ∨ i = .fireTxDone ∨ i = .setbrk ∨ i = .clrbrk) →
    t.rx = s.rx ∧ t.irq = s.irq ∧ t.lines = s.lines ∧ t.cfg = s.cfg ∧ t.returned = s.returned
end

