-- ==== Sys2Proof/Laws/State.lean ====
section
/-! SUPPORT. The small lemmas of the state's updates: for each primitive operation one lemma per field, all by rfl and
in the simp set, so that no later proof unfolds a record update. -/

namespace Sys2Proof.Machine

@[simp] theorem now_eq (s : State) : now s = s.side.now := rfl
@[simp] theorem satSub_eq (a b : Nat) : satSub a b = a - b := by simp [satSub]

/-! emit -/

@[simp] theorem emit_baud (e : Event) (s : State) : (emit e s).baud = s.baud := rfl
@[simp] theorem emit_tx (e : Event) (s : State) : (emit e s).tx = s.tx := rfl
@[simp] theorem emit_rx (e : Event) (s : State) : (emit e s).rx = s.rx := rfl
@[simp] theorem emit_irq (e : Event) (s : State) : (emit e s).irq = s.irq := rfl
@[simp] theorem emit_lines (e : Event) (s : State) : (emit e s).lines = s.lines := rfl
@[simp] theorem emit_session (e : Event) (s : State) : (emit e s).session = s.session := rfl
@[simp] theorem emit_cfg (e : Event) (s : State) : (emit e s).cfg = s.cfg := rfl
@[simp] theorem emit_history (e : Event) (s : State) : (emit e s).history = s.history ++ [{ now := now s, record := .event e }] := rfl
@[simp] theorem emit_returned (e : Event) (s : State) : (emit e s).returned = s.returned := rfl
@[simp] theorem emit_stimIndex (e : Event) (s : State) : (emit e s).stimIndex = s.stimIndex := rfl
@[simp] theorem emit_par (e : Event) (s : State) : (emit e s).par = s.par := rfl
@[simp] theorem emit_side (e : Event) (s : State) : (emit e s).side = s.side := rfl
@[simp] theorem emit_pending (e : Event) (s : State) : (emit e s).pending = s.pending := rfl
@[simp] theorem emit_script (e : Event) (s : State) : (emit e s).script = s.script := rfl
@[simp] theorem emit_draws (e : Event) (s : State) : (emit e s).draws = s.draws := rfl

/-! logReason -/

@[simp] theorem logReason_baud (r : LogReason) (s : State) : (logReason r s).baud = s.baud := rfl
@[simp] theorem logReason_tx (r : LogReason) (s : State) : (logReason r s).tx = s.tx := rfl
@[simp] theorem logReason_rx (r : LogReason) (s : State) : (logReason r s).rx = s.rx := rfl
@[simp] theorem logReason_irq (r : LogReason) (s : State) : (logReason r s).irq = s.irq := rfl
@[simp] theorem logReason_lines (r : LogReason) (s : State) : (logReason r s).lines = s.lines := rfl
@[simp] theorem logReason_session (r : LogReason) (s : State) : (logReason r s).session = s.session := rfl
@[simp] theorem logReason_cfg (r : LogReason) (s : State) : (logReason r s).cfg = s.cfg := rfl
@[simp] theorem logReason_history (r : LogReason) (s : State) : (logReason r s).history = s.history ++ [{ now := now s, record := .event (.log r) }] := rfl
@[simp] theorem logReason_returned (r : LogReason) (s : State) : (logReason r s).returned = s.returned := rfl
@[simp] theorem logReason_stimIndex (r : LogReason) (s : State) : (logReason r s).stimIndex = s.stimIndex := rfl
@[simp] theorem logReason_par (r : LogReason) (s : State) : (logReason r s).par = s.par := rfl
@[simp] theorem logReason_side (r : LogReason) (s : State) : (logReason r s).side = s.side := rfl
@[simp] theorem logReason_pending (r : LogReason) (s : State) : (logReason r s).pending = s.pending := rfl
@[simp] theorem logReason_script (r : LogReason) (s : State) : (logReason r s).script = s.script := rfl
@[simp] theorem logReason_draws (r : LogReason) (s : State) : (logReason r s).draws = s.draws := rfl

/-! schedule -/

@[simp] theorem schedule_baud (k : CallbackKind) (c : Nat) (s : State) : (schedule k c s).baud = s.baud := rfl
@[simp] theorem schedule_tx (k : CallbackKind) (c : Nat) (s : State) : (schedule k c s).tx = s.tx := rfl
@[simp] theorem schedule_rx (k : CallbackKind) (c : Nat) (s : State) : (schedule k c s).rx = s.rx := rfl
@[simp] theorem schedule_irq (k : CallbackKind) (c : Nat) (s : State) : (schedule k c s).irq = s.irq := rfl
@[simp] theorem schedule_lines (k : CallbackKind) (c : Nat) (s : State) : (schedule k c s).lines = s.lines := rfl
@[simp] theorem schedule_session (k : CallbackKind) (c : Nat) (s : State) : (schedule k c s).session = s.session := rfl
@[simp] theorem schedule_cfg (k : CallbackKind) (c : Nat) (s : State) : (schedule k c s).cfg = s.cfg := rfl
@[simp] theorem schedule_history (k : CallbackKind) (c : Nat) (s : State) : (schedule k c s).history = s.history ++ [{ now := now s, record := .event (.schedule k c s.session.gen) }] := rfl
@[simp] theorem schedule_returned (k : CallbackKind) (c : Nat) (s : State) : (schedule k c s).returned = s.returned := rfl
@[simp] theorem schedule_stimIndex (k : CallbackKind) (c : Nat) (s : State) : (schedule k c s).stimIndex = s.stimIndex := rfl
@[simp] theorem schedule_par (k : CallbackKind) (c : Nat) (s : State) : (schedule k c s).par = s.par := rfl
@[simp] theorem schedule_side (k : CallbackKind) (c : Nat) (s : State) : (schedule k c s).side = s.side := rfl
@[simp] theorem schedule_pending (k : CallbackKind) (c : Nat) (s : State) : (schedule k c s).pending = s.pending := rfl
@[simp] theorem schedule_script (k : CallbackKind) (c : Nat) (s : State) : (schedule k c s).script = s.script := rfl
@[simp] theorem schedule_draws (k : CallbackKind) (c : Nat) (s : State) : (schedule k c s).draws = s.draws := rfl

/-! requestTBE -/

@[simp] theorem requestTBE_baud (s : State) : (requestTBE s).baud = s.baud := rfl
@[simp] theorem requestTBE_tx (s : State) : (requestTBE s).tx = s.tx := rfl
@[simp] theorem requestTBE_rx (s : State) : (requestTBE s).rx = s.rx := rfl
@[simp] theorem requestTBE_irq (s : State) : (requestTBE s).irq = s.irq := rfl
@[simp] theorem requestTBE_lines (s : State) : (requestTBE s).lines = s.lines := rfl
@[simp] theorem requestTBE_session (s : State) : (requestTBE s).session = s.session := rfl
@[simp] theorem requestTBE_cfg (s : State) : (requestTBE s).cfg = s.cfg := rfl
@[simp] theorem requestTBE_history (s : State) : (requestTBE s).history = s.history ++ [{ now := now s, record := .event .irqTBE }] := rfl
@[simp] theorem requestTBE_returned (s : State) : (requestTBE s).returned = s.returned := rfl
@[simp] theorem requestTBE_stimIndex (s : State) : (requestTBE s).stimIndex = s.stimIndex := rfl
@[simp] theorem requestTBE_par (s : State) : (requestTBE s).par = s.par := rfl
@[simp] theorem requestTBE_side (s : State) : (requestTBE s).side = s.side := rfl
@[simp] theorem requestTBE_pending (s : State) : (requestTBE s).pending = s.pending := rfl
@[simp] theorem requestTBE_script (s : State) : (requestTBE s).script = s.script := rfl
@[simp] theorem requestTBE_draws (s : State) : (requestTBE s).draws = s.draws := rfl

/-! requestRBF -/

@[simp] theorem requestRBF_baud (s : State) : (requestRBF s).baud = s.baud := rfl
@[simp] theorem requestRBF_tx (s : State) : (requestRBF s).tx = s.tx := rfl
@[simp] theorem requestRBF_rx (s : State) : (requestRBF s).rx = s.rx := rfl
@[simp] theorem requestRBF_irq (s : State) : (requestRBF s).irq = s.irq := rfl
@[simp] theorem requestRBF_lines (s : State) : (requestRBF s).lines = s.lines := rfl
@[simp] theorem requestRBF_session (s : State) : (requestRBF s).session = s.session := rfl
@[simp] theorem requestRBF_cfg (s : State) : (requestRBF s).cfg = s.cfg := rfl
@[simp] theorem requestRBF_history (s : State) : (requestRBF s).history = s.history ++ [{ now := now s, record := .event .irqRBF }] := rfl
@[simp] theorem requestRBF_returned (s : State) : (requestRBF s).returned = s.returned := rfl
@[simp] theorem requestRBF_stimIndex (s : State) : (requestRBF s).stimIndex = s.stimIndex := rfl
@[simp] theorem requestRBF_par (s : State) : (requestRBF s).par = s.par := rfl
@[simp] theorem requestRBF_side (s : State) : (requestRBF s).side = s.side := rfl
@[simp] theorem requestRBF_pending (s : State) : (requestRBF s).pending = s.pending := rfl
@[simp] theorem requestRBF_script (s : State) : (requestRBF s).script = s.script := rfl
@[simp] theorem requestRBF_draws (s : State) : (requestRBF s).draws = s.draws := rfl

/-! giveBack -/

@[simp] theorem giveBack_baud (r : Returned) (s : State) : (giveBack r s).baud = s.baud := rfl
@[simp] theorem giveBack_tx (r : Returned) (s : State) : (giveBack r s).tx = s.tx := rfl
@[simp] theorem giveBack_rx (r : Returned) (s : State) : (giveBack r s).rx = s.rx := rfl
@[simp] theorem giveBack_irq (r : Returned) (s : State) : (giveBack r s).irq = s.irq := rfl
@[simp] theorem giveBack_lines (r : Returned) (s : State) : (giveBack r s).lines = s.lines := rfl
@[simp] theorem giveBack_session (r : Returned) (s : State) : (giveBack r s).session = s.session := rfl
@[simp] theorem giveBack_cfg (r : Returned) (s : State) : (giveBack r s).cfg = s.cfg := rfl
@[simp] theorem giveBack_history (r : Returned) (s : State) : (giveBack r s).history = s.history := rfl
@[simp] theorem giveBack_returned (r : Returned) (s : State) : (giveBack r s).returned = s.returned ++ [r] := rfl
@[simp] theorem giveBack_stimIndex (r : Returned) (s : State) : (giveBack r s).stimIndex = s.stimIndex := rfl
@[simp] theorem giveBack_par (r : Returned) (s : State) : (giveBack r s).par = s.par := rfl
@[simp] theorem giveBack_side (r : Returned) (s : State) : (giveBack r s).side = s.side := rfl
@[simp] theorem giveBack_pending (r : Returned) (s : State) : (giveBack r s).pending = s.pending := rfl
@[simp] theorem giveBack_script (r : Returned) (s : State) : (giveBack r s).script = s.script := rfl
@[simp] theorem giveBack_draws (r : Returned) (s : State) : (giveBack r s).draws = s.draws := rfl

/-! called -/

@[simp] theorem called_baud (x : Exchange) (rest : Script) (s : State) : (called x rest s).baud = s.baud := rfl
@[simp] theorem called_tx (x : Exchange) (rest : Script) (s : State) : (called x rest s).tx = s.tx := rfl
@[simp] theorem called_rx (x : Exchange) (rest : Script) (s : State) : (called x rest s).rx = s.rx := rfl
@[simp] theorem called_irq (x : Exchange) (rest : Script) (s : State) : (called x rest s).irq = s.irq := rfl
@[simp] theorem called_lines (x : Exchange) (rest : Script) (s : State) : (called x rest s).lines = s.lines := rfl
@[simp] theorem called_session (x : Exchange) (rest : Script) (s : State) : (called x rest s).session = s.session := rfl
@[simp] theorem called_cfg (x : Exchange) (rest : Script) (s : State) : (called x rest s).cfg = s.cfg := rfl
@[simp] theorem called_history (x : Exchange) (rest : Script) (s : State) : (called x rest s).history = s.history ++ [{ now := now s, record := .call x }] := rfl
@[simp] theorem called_returned (x : Exchange) (rest : Script) (s : State) : (called x rest s).returned = s.returned := rfl
@[simp] theorem called_stimIndex (x : Exchange) (rest : Script) (s : State) : (called x rest s).stimIndex = s.stimIndex := rfl
@[simp] theorem called_par (x : Exchange) (rest : Script) (s : State) : (called x rest s).par = s.par := rfl
@[simp] theorem called_side (x : Exchange) (rest : Script) (s : State) : (called x rest s).side = s.side := rfl
@[simp] theorem called_pending (x : Exchange) (rest : Script) (s : State) : (called x rest s).pending = s.pending := rfl
@[simp] theorem called_script (x : Exchange) (rest : Script) (s : State) : (called x rest s).script = rest := rfl
@[simp] theorem called_draws (x : Exchange) (rest : Script) (s : State) : (called x rest s).draws = s.draws + 1 := rfl

/-! calledOpen -/

@[simp] theorem calledOpen_baud (k : Transport) (s : State) : (calledOpen k s).baud = s.baud := rfl
@[simp] theorem calledOpen_tx (k : Transport) (s : State) : (calledOpen k s).tx = s.tx := rfl
@[simp] theorem calledOpen_rx (k : Transport) (s : State) : (calledOpen k s).rx = s.rx := rfl
@[simp] theorem calledOpen_irq (k : Transport) (s : State) : (calledOpen k s).irq = s.irq := rfl
@[simp] theorem calledOpen_lines (k : Transport) (s : State) : (calledOpen k s).lines = s.lines := rfl
@[simp] theorem calledOpen_session (k : Transport) (s : State) : (calledOpen k s).session = s.session := rfl
@[simp] theorem calledOpen_cfg (k : Transport) (s : State) : (calledOpen k s).cfg = s.cfg := rfl
@[simp] theorem calledOpen_history (k : Transport) (s : State) : (calledOpen k s).history = s.history ++ [{ now := now s, record := .call (.opened k (openAnswer s)) }] := rfl
@[simp] theorem calledOpen_returned (k : Transport) (s : State) : (calledOpen k s).returned = s.returned := rfl
@[simp] theorem calledOpen_stimIndex (k : Transport) (s : State) : (calledOpen k s).stimIndex = s.stimIndex := rfl
@[simp] theorem calledOpen_par (k : Transport) (s : State) : (calledOpen k s).par = s.par := rfl
@[simp] theorem calledOpen_side (k : Transport) (s : State) : (calledOpen k s).side = s.side := rfl
@[simp] theorem calledOpen_pending (k : Transport) (s : State) : (calledOpen k s).pending = s.pending := rfl
@[simp] theorem calledOpen_script (k : Transport) (s : State) : (calledOpen k s).script = { s.script with opens := s.script.opens.tail } := rfl
@[simp] theorem calledOpen_draws (k : Transport) (s : State) : (calledOpen k s).draws = s.draws + 1 := rfl

/-! calledReadAvailable -/

@[simp] theorem calledReadAvailable_baud (s : State) : (calledReadAvailable s).baud = s.baud := rfl
@[simp] theorem calledReadAvailable_tx (s : State) : (calledReadAvailable s).tx = s.tx := rfl
@[simp] theorem calledReadAvailable_rx (s : State) : (calledReadAvailable s).rx = s.rx := rfl
@[simp] theorem calledReadAvailable_irq (s : State) : (calledReadAvailable s).irq = s.irq := rfl
@[simp] theorem calledReadAvailable_lines (s : State) : (calledReadAvailable s).lines = s.lines := rfl
@[simp] theorem calledReadAvailable_session (s : State) : (calledReadAvailable s).session = s.session := rfl
@[simp] theorem calledReadAvailable_cfg (s : State) : (calledReadAvailable s).cfg = s.cfg := rfl
@[simp] theorem calledReadAvailable_history (s : State) : (calledReadAvailable s).history = s.history ++ [{ now := now s, record := .call (.readAvailable (readAvailableAnswer s)) }] := rfl
@[simp] theorem calledReadAvailable_returned (s : State) : (calledReadAvailable s).returned = s.returned := rfl
@[simp] theorem calledReadAvailable_stimIndex (s : State) : (calledReadAvailable s).stimIndex = s.stimIndex := rfl
@[simp] theorem calledReadAvailable_par (s : State) : (calledReadAvailable s).par = s.par := rfl
@[simp] theorem calledReadAvailable_side (s : State) : (calledReadAvailable s).side = s.side := rfl
@[simp] theorem calledReadAvailable_pending (s : State) : (calledReadAvailable s).pending = s.pending := rfl
@[simp] theorem calledReadAvailable_script (s : State) : (calledReadAvailable s).script = { s.script with readAvailables := s.script.readAvailables.tail } := rfl
@[simp] theorem calledReadAvailable_draws (s : State) : (calledReadAvailable s).draws = s.draws + 1 := rfl

/-! calledRead -/

@[simp] theorem calledRead_baud (k : Nat) (s : State) : (calledRead k s).baud = s.baud := rfl
@[simp] theorem calledRead_tx (k : Nat) (s : State) : (calledRead k s).tx = s.tx := rfl
@[simp] theorem calledRead_rx (k : Nat) (s : State) : (calledRead k s).rx = s.rx := rfl
@[simp] theorem calledRead_irq (k : Nat) (s : State) : (calledRead k s).irq = s.irq := rfl
@[simp] theorem calledRead_lines (k : Nat) (s : State) : (calledRead k s).lines = s.lines := rfl
@[simp] theorem calledRead_session (k : Nat) (s : State) : (calledRead k s).session = s.session := rfl
@[simp] theorem calledRead_cfg (k : Nat) (s : State) : (calledRead k s).cfg = s.cfg := rfl
@[simp] theorem calledRead_history (k : Nat) (s : State) : (calledRead k s).history = s.history ++ [{ now := now s, record := .call (.read k (readAnswer k s)) }] := rfl
@[simp] theorem calledRead_returned (k : Nat) (s : State) : (calledRead k s).returned = s.returned := rfl
@[simp] theorem calledRead_stimIndex (k : Nat) (s : State) : (calledRead k s).stimIndex = s.stimIndex := rfl
@[simp] theorem calledRead_par (k : Nat) (s : State) : (calledRead k s).par = s.par := rfl
@[simp] theorem calledRead_side (k : Nat) (s : State) : (calledRead k s).side = s.side := rfl
@[simp] theorem calledRead_pending (k : Nat) (s : State) : (calledRead k s).pending = s.pending := rfl
@[simp] theorem calledRead_script (k : Nat) (s : State) : (calledRead k s).script = { s.script with reads := s.script.reads.tail } := rfl
@[simp] theorem calledRead_draws (k : Nat) (s : State) : (calledRead k s).draws = s.draws + 1 := rfl

/-! calledWriteAvailable -/

@[simp] theorem calledWriteAvailable_baud (n : Nat) (s : State) : (calledWriteAvailable n s).baud = s.baud := rfl
@[simp] theorem calledWriteAvailable_tx (n : Nat) (s : State) : (calledWriteAvailable n s).tx = s.tx := rfl
@[simp] theorem calledWriteAvailable_rx (n : Nat) (s : State) : (calledWriteAvailable n s).rx = s.rx := rfl
@[simp] theorem calledWriteAvailable_irq (n : Nat) (s : State) : (calledWriteAvailable n s).irq = s.irq := rfl
@[simp] theorem calledWriteAvailable_lines (n : Nat) (s : State) : (calledWriteAvailable n s).lines = s.lines := rfl
@[simp] theorem calledWriteAvailable_session (n : Nat) (s : State) : (calledWriteAvailable n s).session = s.session := rfl
@[simp] theorem calledWriteAvailable_cfg (n : Nat) (s : State) : (calledWriteAvailable n s).cfg = s.cfg := rfl
@[simp] theorem calledWriteAvailable_history (n : Nat) (s : State) : (calledWriteAvailable n s).history = s.history ++ [{ now := now s, record := .call (.writeAvailable n (writeAvailableAnswer s)) }] := rfl
@[simp] theorem calledWriteAvailable_returned (n : Nat) (s : State) : (calledWriteAvailable n s).returned = s.returned := rfl
@[simp] theorem calledWriteAvailable_stimIndex (n : Nat) (s : State) : (calledWriteAvailable n s).stimIndex = s.stimIndex := rfl
@[simp] theorem calledWriteAvailable_par (n : Nat) (s : State) : (calledWriteAvailable n s).par = s.par := rfl
@[simp] theorem calledWriteAvailable_side (n : Nat) (s : State) : (calledWriteAvailable n s).side = s.side := rfl
@[simp] theorem calledWriteAvailable_pending (n : Nat) (s : State) : (calledWriteAvailable n s).pending = s.pending := rfl
@[simp] theorem calledWriteAvailable_script (n : Nat) (s : State) : (calledWriteAvailable n s).script = { s.script with writeAvailables := s.script.writeAvailables.tail } := rfl
@[simp] theorem calledWriteAvailable_draws (n : Nat) (s : State) : (calledWriteAvailable n s).draws = s.draws + 1 := rfl

/-! calledWrite -/

@[simp] theorem calledWrite_baud (bytes : List Byte) (s : State) : (calledWrite bytes s).baud = s.baud := rfl
@[simp] theorem calledWrite_tx (bytes : List Byte) (s : State) : (calledWrite bytes s).tx = s.tx := rfl
@[simp] theorem calledWrite_rx (bytes : List Byte) (s : State) : (calledWrite bytes s).rx = s.rx := rfl
@[simp] theorem calledWrite_irq (bytes : List Byte) (s : State) : (calledWrite bytes s).irq = s.irq := rfl
@[simp] theorem calledWrite_lines (bytes : List Byte) (s : State) : (calledWrite bytes s).lines = s.lines := rfl
@[simp] theorem calledWrite_session (bytes : List Byte) (s : State) : (calledWrite bytes s).session = s.session := rfl
@[simp] theorem calledWrite_cfg (bytes : List Byte) (s : State) : (calledWrite bytes s).cfg = s.cfg := rfl
@[simp] theorem calledWrite_history (bytes : List Byte) (s : State) : (calledWrite bytes s).history = s.history ++ [{ now := now s, record := .call (.write bytes (writeAnswer bytes s)) }] := rfl
@[simp] theorem calledWrite_returned (bytes : List Byte) (s : State) : (calledWrite bytes s).returned = s.returned := rfl
@[simp] theorem calledWrite_stimIndex (bytes : List Byte) (s : State) : (calledWrite bytes s).stimIndex = s.stimIndex := rfl
@[simp] theorem calledWrite_par (bytes : List Byte) (s : State) : (calledWrite bytes s).par = s.par := rfl
@[simp] theorem calledWrite_side (bytes : List Byte) (s : State) : (calledWrite bytes s).side = s.side := rfl
@[simp] theorem calledWrite_pending (bytes : List Byte) (s : State) : (calledWrite bytes s).pending = s.pending := rfl
@[simp] theorem calledWrite_script (bytes : List Byte) (s : State) : (calledWrite bytes s).script = { s.script with writes := s.script.writes.tail } := rfl
@[simp] theorem calledWrite_draws (bytes : List Byte) (s : State) : (calledWrite bytes s).draws = s.draws + 1 := rfl

/-! calledFlush -/

@[simp] theorem calledFlush_baud (s : State) : (calledFlush s).baud = s.baud := rfl
@[simp] theorem calledFlush_tx (s : State) : (calledFlush s).tx = s.tx := rfl
@[simp] theorem calledFlush_rx (s : State) : (calledFlush s).rx = s.rx := rfl
@[simp] theorem calledFlush_irq (s : State) : (calledFlush s).irq = s.irq := rfl
@[simp] theorem calledFlush_lines (s : State) : (calledFlush s).lines = s.lines := rfl
@[simp] theorem calledFlush_session (s : State) : (calledFlush s).session = s.session := rfl
@[simp] theorem calledFlush_cfg (s : State) : (calledFlush s).cfg = s.cfg := rfl
@[simp] theorem calledFlush_history (s : State) : (calledFlush s).history = s.history ++ [{ now := now s, record := .call (.flush (flushAnswer s)) }] := rfl
@[simp] theorem calledFlush_returned (s : State) : (calledFlush s).returned = s.returned := rfl
@[simp] theorem calledFlush_stimIndex (s : State) : (calledFlush s).stimIndex = s.stimIndex := rfl
@[simp] theorem calledFlush_par (s : State) : (calledFlush s).par = s.par := rfl
@[simp] theorem calledFlush_side (s : State) : (calledFlush s).side = s.side := rfl
@[simp] theorem calledFlush_pending (s : State) : (calledFlush s).pending = s.pending := rfl
@[simp] theorem calledFlush_script (s : State) : (calledFlush s).script = { s.script with flushes := s.script.flushes.tail } := rfl
@[simp] theorem calledFlush_draws (s : State) : (calledFlush s).draws = s.draws + 1 := rfl

/-! calledGetLineStatus -/

@[simp] theorem calledGetLineStatus_baud (s : State) : (calledGetLineStatus s).baud = s.baud := rfl
@[simp] theorem calledGetLineStatus_tx (s : State) : (calledGetLineStatus s).tx = s.tx := rfl
@[simp] theorem calledGetLineStatus_rx (s : State) : (calledGetLineStatus s).rx = s.rx := rfl
@[simp] theorem calledGetLineStatus_irq (s : State) : (calledGetLineStatus s).irq = s.irq := rfl
@[simp] theorem calledGetLineStatus_lines (s : State) : (calledGetLineStatus s).lines = s.lines := rfl
@[simp] theorem calledGetLineStatus_session (s : State) : (calledGetLineStatus s).session = s.session := rfl
@[simp] theorem calledGetLineStatus_cfg (s : State) : (calledGetLineStatus s).cfg = s.cfg := rfl
@[simp] theorem calledGetLineStatus_history (s : State) : (calledGetLineStatus s).history = s.history ++ [{ now := now s, record := .call (.getLineStatus (getLineStatusAnswer s)) }] := rfl
@[simp] theorem calledGetLineStatus_returned (s : State) : (calledGetLineStatus s).returned = s.returned := rfl
@[simp] theorem calledGetLineStatus_stimIndex (s : State) : (calledGetLineStatus s).stimIndex = s.stimIndex := rfl
@[simp] theorem calledGetLineStatus_par (s : State) : (calledGetLineStatus s).par = s.par := rfl
@[simp] theorem calledGetLineStatus_side (s : State) : (calledGetLineStatus s).side = s.side := rfl
@[simp] theorem calledGetLineStatus_pending (s : State) : (calledGetLineStatus s).pending = s.pending := rfl
@[simp] theorem calledGetLineStatus_script (s : State) : (calledGetLineStatus s).script = { s.script with getLineStatuses := s.script.getLineStatuses.tail } := rfl
@[simp] theorem calledGetLineStatus_draws (s : State) : (calledGetLineStatus s).draws = s.draws + 1 := rfl

/-! calledSetLineStatus -/

@[simp] theorem calledSetLineStatus_baud (d r : Bool) (s : State) : (calledSetLineStatus d r s).baud = s.baud := rfl
@[simp] theorem calledSetLineStatus_tx (d r : Bool) (s : State) : (calledSetLineStatus d r s).tx = s.tx := rfl
@[simp] theorem calledSetLineStatus_rx (d r : Bool) (s : State) : (calledSetLineStatus d r s).rx = s.rx := rfl
@[simp] theorem calledSetLineStatus_irq (d r : Bool) (s : State) : (calledSetLineStatus d r s).irq = s.irq := rfl
@[simp] theorem calledSetLineStatus_lines (d r : Bool) (s : State) : (calledSetLineStatus d r s).lines = s.lines := rfl
@[simp] theorem calledSetLineStatus_session (d r : Bool) (s : State) : (calledSetLineStatus d r s).session = s.session := rfl
@[simp] theorem calledSetLineStatus_cfg (d r : Bool) (s : State) : (calledSetLineStatus d r s).cfg = s.cfg := rfl
@[simp] theorem calledSetLineStatus_history (d r : Bool) (s : State) : (calledSetLineStatus d r s).history = s.history ++ [{ now := now s, record := .call (.setLineStatus d r (setLineStatusAnswer s)) }] := rfl
@[simp] theorem calledSetLineStatus_returned (d r : Bool) (s : State) : (calledSetLineStatus d r s).returned = s.returned := rfl
@[simp] theorem calledSetLineStatus_stimIndex (d r : Bool) (s : State) : (calledSetLineStatus d r s).stimIndex = s.stimIndex := rfl
@[simp] theorem calledSetLineStatus_par (d r : Bool) (s : State) : (calledSetLineStatus d r s).par = s.par := rfl
@[simp] theorem calledSetLineStatus_side (d r : Bool) (s : State) : (calledSetLineStatus d r s).side = s.side := rfl
@[simp] theorem calledSetLineStatus_pending (d r : Bool) (s : State) : (calledSetLineStatus d r s).pending = s.pending := rfl
@[simp] theorem calledSetLineStatus_script (d r : Bool) (s : State) : (calledSetLineStatus d r s).script = { s.script with setLineStatuses := s.script.setLineStatuses.tail } := rfl
@[simp] theorem calledSetLineStatus_draws (d r : Bool) (s : State) : (calledSetLineStatus d r s).draws = s.draws + 1 := rfl

/-! transportFailed -/

@[simp] theorem transportFailed_baud (s : State) : (transportFailed s).baud = s.baud := rfl
@[simp] theorem transportFailed_tx (s : State) : (transportFailed s).tx = s.tx := rfl
@[simp] theorem transportFailed_rx (s : State) : (transportFailed s).rx = s.rx := rfl
@[simp] theorem transportFailed_irq (s : State) : (transportFailed s).irq = s.irq := rfl
@[simp] theorem transportFailed_lines (s : State) : (transportFailed s).lines = s.lines := rfl
@[simp] theorem transportFailed_session (s : State) : (transportFailed s).session = { s.session with available := false } := rfl
@[simp] theorem transportFailed_cfg (s : State) : (transportFailed s).cfg = s.cfg := rfl
@[simp] theorem transportFailed_history (s : State) : (transportFailed s).history = s.history ++ [{ now := now s, record := .event (.log .transportFailed) }] := rfl
@[simp] theorem transportFailed_returned (s : State) : (transportFailed s).returned = s.returned := rfl
@[simp] theorem transportFailed_stimIndex (s : State) : (transportFailed s).stimIndex = s.stimIndex := rfl
@[simp] theorem transportFailed_par (s : State) : (transportFailed s).par = s.par := rfl
@[simp] theorem transportFailed_side (s : State) : (transportFailed s).side = s.side := rfl
@[simp] theorem transportFailed_pending (s : State) : (transportFailed s).pending = s.pending := rfl
@[simp] theorem transportFailed_script (s : State) : (transportFailed s).script = s.script := rfl
@[simp] theorem transportFailed_draws (s : State) : (transportFailed s).draws = s.draws := rfl

/-! resetSession -/

@[simp] theorem resetSession_baud (g : Nat) (s : State) : (resetSession g s).baud = .reset s.par := rfl
@[simp] theorem resetSession_tx (g : Nat) (s : State) : (resetSession g s).tx = .reset := rfl
@[simp] theorem resetSession_rx (g : Nat) (s : State) : (resetSession g s).rx = .reset := rfl
@[simp] theorem resetSession_irq (g : Nat) (s : State) : (resetSession g s).irq = .reset := rfl
@[simp] theorem resetSession_lines (g : Nat) (s : State) : (resetSession g s).lines = .reset := rfl
@[simp] theorem resetSession_session (g : Nat) (s : State) : (resetSession g s).session = { transport := .none, available := false, gen := g } := rfl
@[simp] theorem resetSession_cfg (g : Nat) (s : State) : (resetSession g s).cfg = .default := rfl
@[simp] theorem resetSession_history (g : Nat) (s : State) : (resetSession g s).history = s.history := rfl
@[simp] theorem resetSession_returned (g : Nat) (s : State) : (resetSession g s).returned = s.returned := rfl
@[simp] theorem resetSession_stimIndex (g : Nat) (s : State) : (resetSession g s).stimIndex = s.stimIndex := rfl
@[simp] theorem resetSession_par (g : Nat) (s : State) : (resetSession g s).par = s.par := rfl
@[simp] theorem resetSession_side (g : Nat) (s : State) : (resetSession g s).side = s.side := rfl
@[simp] theorem resetSession_pending (g : Nat) (s : State) : (resetSession g s).pending = s.pending := rfl
@[simp] theorem resetSession_script (g : Nat) (s : State) : (resetSession g s).script = s.script := rfl
@[simp] theorem resetSession_draws (g : Nat) (s : State) : (resetSession g s).draws = s.draws := rfl

/-! takeStimulus -/

@[simp] theorem takeStimulus_baud (st : Stimulus) (rest : List Stimulus) (s : State) : (takeStimulus st rest s).baud = s.baud := rfl
@[simp] theorem takeStimulus_tx (st : Stimulus) (rest : List Stimulus) (s : State) : (takeStimulus st rest s).tx = s.tx := rfl
@[simp] theorem takeStimulus_rx (st : Stimulus) (rest : List Stimulus) (s : State) : (takeStimulus st rest s).rx = s.rx := rfl
@[simp] theorem takeStimulus_irq (st : Stimulus) (rest : List Stimulus) (s : State) : (takeStimulus st rest s).irq = s.irq := rfl
@[simp] theorem takeStimulus_lines (st : Stimulus) (rest : List Stimulus) (s : State) : (takeStimulus st rest s).lines = s.lines := rfl
@[simp] theorem takeStimulus_session (st : Stimulus) (rest : List Stimulus) (s : State) : (takeStimulus st rest s).session = s.session := rfl
@[simp] theorem takeStimulus_cfg (st : Stimulus) (rest : List Stimulus) (s : State) : (takeStimulus st rest s).cfg = s.cfg := rfl
@[simp] theorem takeStimulus_history (st : Stimulus) (rest : List Stimulus) (s : State) : (takeStimulus st rest s).history = s.history := rfl
@[simp] theorem takeStimulus_returned (st : Stimulus) (rest : List Stimulus) (s : State) : (takeStimulus st rest s).returned = s.returned := rfl
@[simp] theorem takeStimulus_stimIndex (st : Stimulus) (rest : List Stimulus) (s : State) : (takeStimulus st rest s).stimIndex = s.stimIndex + 1 := rfl
@[simp] theorem takeStimulus_par (st : Stimulus) (rest : List Stimulus) (s : State) : (takeStimulus st rest s).par = s.par := rfl
@[simp] theorem takeStimulus_side (st : Stimulus) (rest : List Stimulus) (s : State) : (takeStimulus st rest s).side = st.side := rfl
@[simp] theorem takeStimulus_pending (st : Stimulus) (rest : List Stimulus) (s : State) : (takeStimulus st rest s).pending = rest := rfl
@[simp] theorem takeStimulus_script (st : Stimulus) (rest : List Stimulus) (s : State) : (takeStimulus st rest s).script = s.script := rfl
@[simp] theorem takeStimulus_draws (st : Stimulus) (rest : List Stimulus) (s : State) : (takeStimulus st rest s).draws = s.draws := rfl

/-! placeStimulus -/

@[simp] theorem placeStimulus_baud (st : Stimulus) (s : State) : (placeStimulus st s).baud = s.baud := rfl
@[simp] theorem placeStimulus_tx (st : Stimulus) (s : State) : (placeStimulus st s).tx = s.tx := rfl
@[simp] theorem placeStimulus_rx (st : Stimulus) (s : State) : (placeStimulus st s).rx = s.rx := rfl
@[simp] theorem placeStimulus_irq (st : Stimulus) (s : State) : (placeStimulus st s).irq = s.irq := rfl
@[simp] theorem placeStimulus_lines (st : Stimulus) (s : State) : (placeStimulus st s).lines = s.lines := rfl
@[simp] theorem placeStimulus_session (st : Stimulus) (s : State) : (placeStimulus st s).session = s.session := rfl
@[simp] theorem placeStimulus_cfg (st : Stimulus) (s : State) : (placeStimulus st s).cfg = s.cfg := rfl
@[simp] theorem placeStimulus_history (st : Stimulus) (s : State) : (placeStimulus st s).history = s.history := rfl
@[simp] theorem placeStimulus_returned (st : Stimulus) (s : State) : (placeStimulus st s).returned = s.returned := rfl
@[simp] theorem placeStimulus_stimIndex (st : Stimulus) (s : State) : (placeStimulus st s).stimIndex = s.stimIndex := rfl
@[simp] theorem placeStimulus_par (st : Stimulus) (s : State) : (placeStimulus st s).par = s.par := rfl
@[simp] theorem placeStimulus_side (st : Stimulus) (s : State) : (placeStimulus st s).side = s.side := rfl
@[simp] theorem placeStimulus_pending (st : Stimulus) (s : State) : (placeStimulus st s).pending = st :: s.pending := rfl
@[simp] theorem placeStimulus_script (st : Stimulus) (s : State) : (placeStimulus st s).script = s.script := rfl
@[simp] theorem placeStimulus_draws (st : Stimulus) (s : State) : (placeStimulus st s).draws = s.draws := rfl

/-! attach -/

@[simp] theorem attach_baud (k : Transport) (a : Bool) (s : State) : (attach k a s).baud = s.baud := rfl
@[simp] theorem attach_tx (k : Transport) (a : Bool) (s : State) : (attach k a s).tx = s.tx := rfl
@[simp] theorem attach_rx (k : Transport) (a : Bool) (s : State) : (attach k a s).rx = s.rx := rfl
@[simp] theorem attach_irq (k : Transport) (a : Bool) (s : State) : (attach k a s).irq = s.irq := rfl
@[simp] theorem attach_lines (k : Transport) (a : Bool) (s : State) : (attach k a s).lines = s.lines := rfl
@[simp] theorem attach_session (k : Transport) (a : Bool) (s : State) : (attach k a s).session = { s.session with transport := k, available := a } := rfl
@[simp] theorem attach_cfg (k : Transport) (a : Bool) (s : State) : (attach k a s).cfg = s.cfg := rfl
@[simp] theorem attach_history (k : Transport) (a : Bool) (s : State) : (attach k a s).history = s.history := rfl
@[simp] theorem attach_returned (k : Transport) (a : Bool) (s : State) : (attach k a s).returned = s.returned := rfl
@[simp] theorem attach_stimIndex (k : Transport) (a : Bool) (s : State) : (attach k a s).stimIndex = s.stimIndex := rfl
@[simp] theorem attach_par (k : Transport) (a : Bool) (s : State) : (attach k a s).par = s.par := rfl
@[simp] theorem attach_side (k : Transport) (a : Bool) (s : State) : (attach k a s).side = s.side := rfl
@[simp] theorem attach_pending (k : Transport) (a : Bool) (s : State) : (attach k a s).pending = s.pending := rfl
@[simp] theorem attach_script (k : Transport) (a : Bool) (s : State) : (attach k a s).script = s.script := rfl
@[simp] theorem attach_draws (k : Transport) (a : Bool) (s : State) : (attach k a s).draws = s.draws := rfl

/-! setPrefix -/

@[simp] theorem setPrefix_baud (p : Option Bool) (s : State) : (setPrefix p s).baud = s.baud := rfl
@[simp] theorem setPrefix_tx (p : Option Bool) (s : State) : (setPrefix p s).tx = s.tx := rfl
@[simp] theorem setPrefix_rx (p : Option Bool) (s : State) : (setPrefix p s).rx = { s.rx with rxPrefix := p } := rfl
@[simp] theorem setPrefix_irq (p : Option Bool) (s : State) : (setPrefix p s).irq = s.irq := rfl
@[simp] theorem setPrefix_lines (p : Option Bool) (s : State) : (setPrefix p s).lines = s.lines := rfl
@[simp] theorem setPrefix_session (p : Option Bool) (s : State) : (setPrefix p s).session = s.session := rfl
@[simp] theorem setPrefix_cfg (p : Option Bool) (s : State) : (setPrefix p s).cfg = s.cfg := rfl
@[simp] theorem setPrefix_history (p : Option Bool) (s : State) : (setPrefix p s).history = s.history := rfl
@[simp] theorem setPrefix_returned (p : Option Bool) (s : State) : (setPrefix p s).returned = s.returned := rfl
@[simp] theorem setPrefix_stimIndex (p : Option Bool) (s : State) : (setPrefix p s).stimIndex = s.stimIndex := rfl
@[simp] theorem setPrefix_par (p : Option Bool) (s : State) : (setPrefix p s).par = s.par := rfl
@[simp] theorem setPrefix_side (p : Option Bool) (s : State) : (setPrefix p s).side = s.side := rfl
@[simp] theorem setPrefix_pending (p : Option Bool) (s : State) : (setPrefix p s).pending = s.pending := rfl
@[simp] theorem setPrefix_script (p : Option Bool) (s : State) : (setPrefix p s).script = s.script := rfl
@[simp] theorem setPrefix_draws (p : Option Bool) (s : State) : (setPrefix p s).draws = s.draws := rfl

/-! setUnread -/

@[simp] theorem setUnread_baud (n : Nat) (s : State) : (setUnread n s).baud = s.baud := rfl
@[simp] theorem setUnread_tx (n : Nat) (s : State) : (setUnread n s).tx = s.tx := rfl
@[simp] theorem setUnread_rx (n : Nat) (s : State) : (setUnread n s).rx = { s.rx with unreadLines := n } := rfl
@[simp] theorem setUnread_irq (n : Nat) (s : State) : (setUnread n s).irq = s.irq := rfl
@[simp] theorem setUnread_lines (n : Nat) (s : State) : (setUnread n s).lines = s.lines := rfl
@[simp] theorem setUnread_session (n : Nat) (s : State) : (setUnread n s).session = s.session := rfl
@[simp] theorem setUnread_cfg (n : Nat) (s : State) : (setUnread n s).cfg = s.cfg := rfl
@[simp] theorem setUnread_history (n : Nat) (s : State) : (setUnread n s).history = s.history := rfl
@[simp] theorem setUnread_returned (n : Nat) (s : State) : (setUnread n s).returned = s.returned := rfl
@[simp] theorem setUnread_stimIndex (n : Nat) (s : State) : (setUnread n s).stimIndex = s.stimIndex := rfl
@[simp] theorem setUnread_par (n : Nat) (s : State) : (setUnread n s).par = s.par := rfl
@[simp] theorem setUnread_side (n : Nat) (s : State) : (setUnread n s).side = s.side := rfl
@[simp] theorem setUnread_pending (n : Nat) (s : State) : (setUnread n s).pending = s.pending := rfl
@[simp] theorem setUnread_script (n : Nat) (s : State) : (setUnread n s).script = s.script := rfl
@[simp] theorem setUnread_draws (n : Nat) (s : State) : (setUnread n s).draws = s.draws := rfl

/-! stall -/

@[simp] theorem stall_baud (s : State) : (stall s).baud = s.baud := rfl
@[simp] theorem stall_tx (s : State) : (stall s).tx = { s.tx with shiftState := .stalled } := rfl
@[simp] theorem stall_rx (s : State) : (stall s).rx = s.rx := rfl
@[simp] theorem stall_irq (s : State) : (stall s).irq = s.irq := rfl
@[simp] theorem stall_lines (s : State) : (stall s).lines = s.lines := rfl
@[simp] theorem stall_session (s : State) : (stall s).session = s.session := rfl
@[simp] theorem stall_cfg (s : State) : (stall s).cfg = s.cfg := rfl
@[simp] theorem stall_history (s : State) : (stall s).history = s.history := rfl
@[simp] theorem stall_returned (s : State) : (stall s).returned = s.returned := rfl
@[simp] theorem stall_stimIndex (s : State) : (stall s).stimIndex = s.stimIndex := rfl
@[simp] theorem stall_par (s : State) : (stall s).par = s.par := rfl
@[simp] theorem stall_side (s : State) : (stall s).side = s.side := rfl
@[simp] theorem stall_pending (s : State) : (stall s).pending = s.pending := rfl
@[simp] theorem stall_script (s : State) : (stall s).script = s.script := rfl
@[simp] theorem stall_draws (s : State) : (stall s).draws = s.draws := rfl

end Sys2Proof.Machine
end

