-- ==== Sys2Proof/Laws/Transmit.lean ====
section
/-! SUPPORT. What the operations of the transmit pipeline do, said once: each result in full, or the cases it can have. -/

namespace Sys2Proof.Machine

/-! Register fields -/

theorem frameBits_true : frameBits true = 11 := rfl
theorem frameBits_false : frameBits false = 10 := rfl

theorem rateCount_eq (w : Reg) : rateCount w = w.toNat % 2 ^ 15 := by
  unfold rateCount
  rw [BitVec.toNat_and]
  exact Nat.and_two_pow_sub_one_eq_mod _ 15

theorem frameBits_eq (nb : Bool) : frameBits nb = if nb then 11 else 10 := by cases nb <;> rfl

theorem frame_length_le (w : Reg) (nb : Bool) (s : State) : (frame w nb s).length ≤ 2 := by
  unfold frame; split
  · simp
  · split <;> simp

theorem frame_ne_nil (w : Reg) (nb : Bool) (s : State) : frame w nb s ≠ [] := by
  unfold frame; split
  · simp
  · split <;> simp

/-! Loading -/

/-- The frame length that a load gives (R57). -/
def loadFrame (s : State) : Nat := (rateCount s.baud.period + 1) * frameBits (ninebit s.baud.period)

/-- The echo that a load queues on Loopback (R59). -/
def loadEcho (t : Nat) (s : State) : Echo :=
  { word := echoWord (ninebit s.baud.period) s.tx.holding, due := t + loadFrame s + s.par.propCycles }

/-- The transmit group after a load (R57). -/
def loadTx (t : Nat) (s : State) : Tx :=
  { s.tx with
    shiftReg := s.tx.holding
    dataPending := false
    shiftState := .draining
    shiftBits := frameBits (ninebit s.baud.period)
    txBitTime := rateCount s.baud.period + 1
    txFrameCycles := loadFrame s
    emitBuf := if s.session.transport = .loopback then [] else frame s.tx.holding (ninebit s.baud.period) s
    emitIdx := 0
    txStartAt := t
    loopQueue := if s.session.transport = .loopback then s.tx.loopQueue ++ [loadEcho t s] else s.tx.loopQueue
    txDoneAt := if s.cfg.cycleExact = true ∧ s.tx.breakTxCounter = 0 then t + loadFrame s else s.tx.txDoneAt
    txFrozenRem := if s.cfg.cycleExact = true ∧ 0 < s.tx.breakTxCounter then loadFrame s else s.tx.txFrozenRem }

/-- The events of a load, in their order (R57, R59). -/
def loadEvents (t : Nat) (s : State) : List Entry :=
  [eventEntry s .irqTBE] ++
    (if s.session.transport = .loopback ∧ s.tx.loopQueue = [] then
      [eventEntry s (.schedule .loopbackRx (loadEcho t s).due s.session.gen)] else []) ++
    (if s.cfg.cycleExact = true ∧ s.tx.breakTxCounter = 0 then
      [eventEntry s (.schedule .txDone (t + loadFrame s) s.session.gen)] else [])

/-- Everything a load does. -/
theorem load_eq (t : Nat) (s : State) :
    load t s = { s with tx := loadTx t s, history := s.history ++ loadEvents t s } := by
  obtain ⟨baud, tx, rx, irq, lines, session, cfg, history, returned, stimIndex, par, side, pending, script, draws⟩ := s
  obtain ⟨tr, av, gen⟩ := session
  by_cases h1 : tr = .loopback <;> by_cases h2 : cfg.cycleExact = true <;>
    rcases Nat.eq_zero_or_pos tx.breakTxCounter with h3 | h3 <;>
    by_cases h4 : tx.loopQueue = [] <;>
    simp_all [load, armFrame, loopEcho, startFrame, latchShifter, loadTx, loadEvents, loadFrame, loadEcho, schedule, emit,
      requestTBE, eventEntry, frame, now, Nat.pos_iff_ne_zero]

@[simp] theorem load_baud (t : Nat) (s : State) : (load t s).baud = s.baud := by rw [load_eq]
@[simp] theorem load_tx (t : Nat) (s : State) : (load t s).tx = loadTx t s := by rw [load_eq]
@[simp] theorem load_rx (t : Nat) (s : State) : (load t s).rx = s.rx := by rw [load_eq]
@[simp] theorem load_irq (t : Nat) (s : State) : (load t s).irq = s.irq := by rw [load_eq]
@[simp] theorem load_lines (t : Nat) (s : State) : (load t s).lines = s.lines := by rw [load_eq]
@[simp] theorem load_session (t : Nat) (s : State) : (load t s).session = s.session := by rw [load_eq]
@[simp] theorem load_cfg (t : Nat) (s : State) : (load t s).cfg = s.cfg := by rw [load_eq]
@[simp] theorem load_history (t : Nat) (s : State) : (load t s).history = s.history ++ loadEvents t s := by rw [load_eq]
@[simp] theorem load_returned (t : Nat) (s : State) : (load t s).returned = s.returned := by rw [load_eq]
@[simp] theorem load_stimIndex (t : Nat) (s : State) : (load t s).stimIndex = s.stimIndex := by rw [load_eq]
@[simp] theorem load_par (t : Nat) (s : State) : (load t s).par = s.par := by rw [load_eq]
@[simp] theorem load_side (t : Nat) (s : State) : (load t s).side = s.side := by rw [load_eq]
@[simp] theorem load_pending (t : Nat) (s : State) : (load t s).pending = s.pending := by rw [load_eq]
@[simp] theorem load_script (t : Nat) (s : State) : (load t s).script = s.script := by rw [load_eq]
@[simp] theorem load_draws (t : Nat) (s : State) : (load t s).draws = s.draws := by rw [load_eq]

/-! The end of a frame -/

/-- The transmit group with the shifter emptied (R62). -/
def emptiedTx (s : State) : Tx :=
  { s.tx with
    lastSent := lastSentAfter s
    shiftState := .empty, shiftReg := 0, shiftBits := 0, txBitTime := 0, txFrameCycles := 0,
    emitBuf := [], emitIdx := 0 }

theorem lastSentAfter_eq (s : State) :
    lastSentAfter s = if s.tx.emitBuf = [] then s.tx.lastSent else s.tx.emitBuf.getLast? := by
  unfold lastSentAfter
  split
  · next b h =>
    have : s.tx.emitBuf ≠ [] := by intro h0; simp [h0] at h
    simp [this, h]
  · next h => simp [List.getLast?_eq_none_iff.mp h]

theorem emptyShifter_eq (s : State) : emptyShifter s = { s with tx := emptiedTx s } := rfl

/-- The end of a frame with no word waiting (R62). -/
theorem finish_idle (t : Nat) (s : State) (h : s.tx.dataPending = false) :
    finish t s = { s with tx := { emptiedTx s with txAccum := 0 } } := by
  simp [finish, emptyShifter, emptiedTx, h]

/-- The end of a frame with a word waiting: that word is loaded (R62). -/
theorem finish_loads (t : Nat) (s : State) (h : s.tx.dataPending = true) :
    finish t s = load t { s with tx := emptiedTx s } := by
  simp [finish, emptyShifter, emptiedTx, h]

/-! Frames of the transmit operations -/

/-- The history has grown by entries of this stimulus (R27). -/
def Grows (s t : State) : Prop := ∃ new, t.history = s.history ++ new ∧ ∀ e ∈ new, e.now = s.side.now

theorem Grows.refl (s : State) : Grows s s := ⟨[], by simp, by simp⟩

theorem Grows.trans {s t u : State} (h1 : Grows s t) (hs : t.side = s.side) (h2 : Grows t u) : Grows s u := by
  obtain ⟨a, ha, ha'⟩ := h1
  obtain ⟨b, hb, hb'⟩ := h2
  refine ⟨a ++ b, by rw [hb, ha, List.append_assoc], fun e he => ?_⟩
  rcases List.mem_append.mp he with h | h
  · exact ha' e h
  · rw [hb' e h, hs]

/-- What every operation of the transmit pipeline leaves unchanged. -/
structure TxFrame (s t : State) : Prop where
  baud : t.baud = s.baud
  rx : t.rx = s.rx
  irq : t.irq = s.irq
  lines : t.lines = s.lines
  cfg : t.cfg = s.cfg
  returned : t.returned = s.returned
  par : t.par = s.par
  side : t.side = s.side
  pending : t.pending = s.pending
  stimIndex : t.stimIndex = s.stimIndex
  transport : t.session.transport = s.session.transport
  gen : t.session.gen = s.session.gen
  available : s.session.available = false → t.session.available = false
  holding : t.tx.holding = s.tx.holding
  asserted : t.tx.txBreakAsserted = s.tx.txBreakAsserted
  grows : Grows s t

theorem TxFrame.refl (s : State) : TxFrame s s := by
  constructor <;> first | rfl | exact id | exact Grows.refl s

theorem TxFrame.trans {s t u : State} (h1 : TxFrame s t) (h2 : TxFrame t u) : TxFrame s u := by
  constructor
  case available => exact fun h => h2.available (h1.available h)
  case grows => exact h1.grows.trans h1.side h2.grows
  all_goals first
    | exact h2.baud.trans h1.baud | exact h2.rx.trans h1.rx | exact h2.irq.trans h1.irq
    | exact h2.lines.trans h1.lines | exact h2.cfg.trans h1.cfg | exact h2.returned.trans h1.returned
    | exact h2.par.trans h1.par | exact h2.side.trans h1.side | exact h2.pending.trans h1.pending
    | exact h2.stimIndex.trans h1.stimIndex | exact h2.transport.trans h1.transport | exact h2.gen.trans h1.gen
    | exact h2.holding.trans h1.holding | exact h2.asserted.trans h1.asserted

theorem loadEvents_now (t : Nat) (s : State) : ∀ e ∈ loadEvents t s, e.now = s.side.now := by
  intro e he
  simp only [loadEvents, List.mem_append, List.mem_singleton] at he
  rcases he with (rfl | he) | he
  · rfl
  · split at he <;> simp_all [eventEntry]
  · split at he <;> simp_all [eventEntry]

theorem load_frame (t : Nat) (s : State) : TxFrame s (load t s) := by
  rw [load_eq]
  constructor <;> first | rfl | exact id | exact ⟨_, rfl, loadEvents_now t s⟩

theorem finish_frame (t : Nat) (s : State) : TxFrame s (finish t s) := by
  cases h : s.tx.dataPending
  · rw [finish_idle t s h]
    constructor <;> first | rfl | exact id | exact ⟨[], by simp, by simp⟩
  · rw [finish_loads t s h]
    have h1 := load_frame t { s with tx := emptiedTx s }
    exact ⟨h1.baud, h1.rx, h1.irq, h1.lines, h1.cfg, h1.returned, h1.par, h1.side, h1.pending, h1.stimIndex,
      h1.transport, h1.gen, h1.available, h1.holding, h1.asserted, h1.grows⟩

/-! Emission -/

/-- The state between the oracle calls of an emission and its outcome: the transport has been asked; the count of bytes
written may have moved on; a Failure may have made the backend unavailable. -/
structure Asked (s r : State) : Prop where
  baud : r.baud = s.baud
  rx : r.rx = s.rx
  irq : r.irq = s.irq
  lines : r.lines = s.lines
  cfg : r.cfg = s.cfg
  returned : r.returned = s.returned
  par : r.par = s.par
  side : r.side = s.side
  pending : r.pending = s.pending
  stimIndex : r.stimIndex = s.stimIndex
  transport : r.session.transport = s.session.transport
  gen : r.session.gen = s.session.gen
  tx : r.tx = { s.tx with emitIdx := r.tx.emitIdx }
  idx : s.tx.emitIdx ≤ s.tx.emitBuf.length → s.tx.emitIdx ≤ r.tx.emitIdx ∧ r.tx.emitIdx ≤ s.tx.emitBuf.length
  history : ∃ new, r.history = s.history ++ new ∧ (∀ e ∈ new, e.now = s.side.now) ∧
    (∀ e ∈ new, (∃ x, e.record = .call x) ∨ (∃ b n, e.record = .event (.write b n)) ∨
      e.record = .event (.log .transportFailed)) ∧
    (r.session.available = s.session.available ∨
      (r.session.available = false ∧ eventEntry s (.log .transportFailed) ∈ new))

theorem boundCount_le (k n : Nat) (a : Answer Nat) (h : boundCount k a = .value n) : n ≤ k := by
  cases a <;> simp_all [boundCount]; omega

/-- `TryEmit` asks the transport, and then either stalls or ends the frame (R61). -/
theorem tryEmit_cases (t : Nat) (s : State) :
    ∃ r, Asked s r ∧ (tryEmit t s = stall r ∨ tryEmit t s = finish t r) := by
  unfold tryEmit
  simp only []
  generalize hrest : s.tx.emitBuf.drop s.tx.emitIdx = rest
  have hlen : rest.length = s.tx.emitBuf.length - s.tx.emitIdx := by rw [← hrest]; simp
  split
  · refine ⟨_, ?_, Or.inr rfl⟩
    constructor <;> first | rfl | (intro h; exact ⟨le_refl _, h⟩) | skip
    refine ⟨[callEntry s (.writeAvailable rest.length (writeAvailableAnswer s)), eventEntry s (.log .transportFailed)],
      by simp [callEntry, eventEntry], by simp [callEntry, eventEntry], by simp [callEntry, eventEntry],
      Or.inr ⟨rfl, by simp⟩⟩
  · refine ⟨_, ?_, Or.inl rfl⟩
    constructor <;> first | rfl | (intro h; exact ⟨le_refl _, h⟩) | skip
    refine ⟨[callEntry s (.writeAvailable rest.length (writeAvailableAnswer s))],
      by simp [callEntry], by simp [callEntry], by simp [callEntry], Or.inl rfl⟩
  · unfold writeRest
    generalize hq : calledWriteAvailable rest.length s = q
    split
    · refine ⟨_, ?_, Or.inr rfl⟩
      subst hq
      constructor <;> first | rfl | (intro h; exact ⟨le_refl _, h⟩) | skip
      refine ⟨[callEntry s (.writeAvailable rest.length (writeAvailableAnswer s)),
        callEntry s (.write rest (writeAnswer rest (calledWriteAvailable rest.length s))),
        eventEntry s (.log .transportFailed)],
        by simp [callEntry, eventEntry], by simp [callEntry, eventEntry], by simp [callEntry, eventEntry],
        Or.inr ⟨rfl, by simp⟩⟩
    · next n hn =>
      have hle := boundCount_le _ _ _ hn
      subst hq
      simp only []
      refine ⟨_, ?_, ite_eq_or_eq _ _ _⟩
      constructor <;> first | rfl | skip
      · intro h
        simp only [emit_tx, calledWrite_tx, calledWriteAvailable_tx]
        omega
      · refine ⟨[callEntry s (.writeAvailable rest.length (writeAvailableAnswer s)),
          callEntry s (.write rest (writeAnswer rest (calledWriteAvailable rest.length s))),
          eventEntry s (.write rest n)],
          by simp [callEntry, eventEntry], by simp [callEntry, eventEntry], by simp [callEntry, eventEntry], Or.inl rfl⟩

theorem Asked.grows {s r : State} (h : Asked s r) : Grows s r := by
  obtain ⟨new, h1, h2, -, -⟩ := h.history
  exact ⟨new, h1, h2⟩

theorem Asked.frame {s r : State} (h : Asked s r) : TxFrame s r where
  baud := h.baud
  rx := h.rx
  irq := h.irq
  lines := h.lines
  cfg := h.cfg
  returned := h.returned
  par := h.par
  side := h.side
  pending := h.pending
  stimIndex := h.stimIndex
  transport := h.transport
  gen := h.gen
  available := by
    obtain ⟨_, _, _, _, h1 | ⟨h1, _⟩⟩ := h.history
    · exact fun h2 => h1.trans h2
    · exact fun _ => h1
  holding := by rw [h.tx]
  asserted := by rw [h.tx]
  grows := h.grows

theorem stall_frame (s : State) : TxFrame s (stall s) := by
  constructor <;> first | rfl | exact id | exact ⟨[], by simp, by simp⟩

theorem tryEmit_frame (t : Nat) (s : State) : TxFrame s (tryEmit t s) := by
  obtain ⟨r, hr, h | h⟩ := tryEmit_cases t s <;> rw [h]
  · exact hr.frame.trans (stall_frame r)
  · exact hr.frame.trans (finish_frame t r)

/-- What `Complete` can do (R60). -/
theorem complete_cases (t : Nat) (s : State) :
    complete t s = finish t s ∨
      (s.session.transport.external = true ∧ s.session.available = true ∧ complete t s = tryEmit t s) := by
  unfold complete
  split
  · exact Or.inl rfl
  · split
    · exact Or.inl rfl
    · next h1 h2 =>
      refine Or.inr ⟨?_, ?_, rfl⟩
      · cases h : s.session.transport <;> simp_all [Transport.external]
      · simpa using (by simpa using h2 : ¬ s.session.transport = .none ∧ s.session.available = true).2

theorem complete_frame (t : Nat) (s : State) : TxFrame s (complete t s) := by
  rcases complete_cases t s with h | ⟨-, -, h⟩ <;> rw [h]
  · exact finish_frame t s
  · exact tryEmit_frame t s

/-- What the transmit part of a tick can do (R63). -/
theorem txTick_cases (t lc : Nat) (s : State) :
    (s.tx.shiftState = .stalled ∧ txTick t lc s = complete t s) ∨
    (s.tx.shiftState = .draining ∧ s.cfg.cycleExact = false ∧ s.tx.breakTxCounter = 0 ∧
      s.tx.txFrameCycles ≤ s.tx.txAccum + lc ∧
      txTick t lc s = complete t { s with tx := { s.tx with txAccum := s.tx.txAccum + lc - s.tx.txFrameCycles } }) ∨
    (s.tx.shiftState = .draining ∧ s.cfg.cycleExact = false ∧ s.tx.breakTxCounter = 0 ∧
      s.tx.txAccum + lc < s.tx.txFrameCycles ∧
      txTick t lc s = { s with tx := { s.tx with txAccum := s.tx.txAccum + lc } }) ∨
    (s.tx.shiftState ≠ .stalled ∧
      ¬ (s.tx.shiftState = .draining ∧ s.cfg.cycleExact = false ∧ s.tx.breakTxCounter = 0) ∧ txTick t lc s = s) := by
  unfold txTick
  split
  · next h => exact Or.inl ⟨h, rfl⟩
  · next h =>
    split
    · next h2 =>
      simp only [Bool.and_eq_true, decide_eq_true_eq, Bool.not_eq_true', beq_iff_eq] at h2
      simp only [ge_iff_le]
      split
      · next h3 => exact Or.inr (Or.inl ⟨h2.1.1, h2.1.2, h2.2, h3, rfl⟩)
      · next h3 => exact Or.inr (Or.inr (Or.inl ⟨h2.1.1, h2.1.2, h2.2, by omega, rfl⟩))
    · next h2 =>
      refine Or.inr (Or.inr (Or.inr ⟨h, ?_, rfl⟩))
      simpa [and_assoc] using h2

theorem txTick_frame (t lc : Nat) (s : State) : TxFrame s (txTick t lc s) := by
  rcases txTick_cases t lc s with ⟨-, h⟩ | ⟨-, -, -, -, h⟩ | ⟨-, -, -, -, h⟩ | ⟨-, -, h⟩ <;> rw [h]
  · exact complete_frame t s
  · have h1 := complete_frame t { s with tx := { s.tx with txAccum := s.tx.txAccum + lc - s.tx.txFrameCycles } }
    exact ⟨h1.baud, h1.rx, h1.irq, h1.lines, h1.cfg, h1.returned, h1.par, h1.side, h1.pending, h1.stimIndex,
      h1.transport, h1.gen, h1.available, h1.holding, h1.asserted, h1.grows⟩
  · constructor <;> first | rfl | exact id | exact ⟨[], by simp, by simp⟩
  · exact TxFrame.refl s

/-! The break-condition generator -/

/-- What the break timer can do (R69). -/
theorem breakTxTick_cases (t : Nat) (s : State) :
    (s.tx.breakTxCounter = 0 ∧ breakTxTick t s = s) ∨
    (1 < s.tx.breakTxCounter ∧
      breakTxTick t s = { s with tx := { s.tx with breakTxCounter := s.tx.breakTxCounter - 1 } }) ∨
    (s.tx.breakTxCounter = 1 ∧ ¬ (s.cfg.cycleExact = true ∧ s.tx.shiftState = .draining) ∧
      breakTxTick t s = { s with
        tx := { s.tx with breakTxCounter := 0 }
        history := s.history ++ [eventEntry s (.log .breakWindowEnd)] }) ∨
    (s.tx.breakTxCounter = 1 ∧ s.cfg.cycleExact = true ∧ s.tx.shiftState = .draining ∧
      breakTxTick t s = { s with
        tx := { s.tx with breakTxCounter := 0, txDoneAt := t + s.tx.txFrozenRem, txFrozenRem := 0 }
        history := s.history ++ [eventEntry s (.log .breakWindowEnd),
          eventEntry s (.schedule .txDone (t + s.tx.txFrozenRem) s.session.gen)] }) := by
  rcases Nat.lt_or_ge 1 s.tx.breakTxCounter with h | h
  · have h1 : s.tx.breakTxCounter - 1 ≠ 0 := by omega
    have h2 : 0 < s.tx.breakTxCounter := by omega
    exact Or.inr (Or.inl ⟨h, by simp [breakTxTick, h1, h2]⟩)
  · rcases Nat.eq_zero_or_pos s.tx.breakTxCounter with h0 | h0
    · exact Or.inl ⟨h0, by simp [breakTxTick, h0]⟩
    · have h1 : s.tx.breakTxCounter = 1 := by omega
      by_cases h2 : s.cfg.cycleExact = true ∧ s.tx.shiftState = .draining
      · refine Or.inr (Or.inr (Or.inr ⟨h1, h2.1, h2.2, ?_⟩))
        simp [breakTxTick, endBreakWindow, h1, h2.1, h2.2, schedule, logReason, emit, eventEntry, now]
      · refine Or.inr (Or.inr (Or.inl ⟨h1, h2, ?_⟩))
        have h3 : (s.cfg.cycleExact && decide (s.tx.shiftState = .draining)) = false := by simpa using h2
        simp [breakTxTick, endBreakWindow, h1, h3, logReason, emit, eventEntry, now]

theorem breakTxTick_frame (t : Nat) (s : State) : TxFrame s (breakTxTick t s) := by
  rcases breakTxTick_cases t s with ⟨-, h⟩ | ⟨-, h⟩ | ⟨-, -, h⟩ | ⟨-, -, -, h⟩ <;> rw [h]
  · exact TxFrame.refl s
  · constructor <;> first | rfl | exact id | exact ⟨[], by simp, by simp⟩
  · constructor <;> first | rfl | exact id | exact ⟨_, rfl, by simp [eventEntry]⟩
  · constructor <;> first | rfl | exact id | exact ⟨_, rfl, by simp [eventEntry]⟩

/-- The counter after the break timer (R69). -/
theorem breakTxTick_counter (t : Nat) (s : State) : (breakTxTick t s).tx.breakTxCounter = s.tx.breakTxCounter - 1 := by
  rcases breakTxTick_cases t s with ⟨h0, h⟩ | ⟨-, h⟩ | ⟨h0, -, h⟩ | ⟨h0, -, -, h⟩ <;> rw [h] <;> simp [h0]

end Sys2Proof.Machine
end

