-- ==== Sys2Proof/Laws/Receive.lean ====
section
/-! SUPPORT. What the operations of the receive pipeline and of the control lines do, said once: each result in full,
the cases it can have, and what it leaves unchanged. -/

namespace Sys2Proof.Machine

/-- What every operation of the receive pipeline leaves unchanged. -/
structure RxFrame (s t : State) : Prop where
  baud : t.baud = s.baud
  tx : t.tx = s.tx
  lines : t.lines = s.lines
  cfg : t.cfg = s.cfg
  returned : t.returned = s.returned
  par : t.par = s.par
  side : t.side = s.side
  pending : t.pending = s.pending
  stimIndex : t.stimIndex = s.stimIndex
  transport : t.session.transport = s.session.transport
  gen : t.session.gen = s.session.gen
  available : s.session.available = false → t.session.available = false
  accum : t.rx.rxAccum = s.rx.rxAccum
  grows : Grows s t

theorem RxFrame.refl (s : State) : RxFrame s s := by
  constructor <;> first | rfl | exact id | exact Grows.refl s

theorem RxFrame.trans {s t u : State} (h1 : RxFrame s t) (h2 : RxFrame t u) : RxFrame s u := by
  constructor
  case available => exact fun h => h2.available (h1.available h)
  case grows => exact h1.grows.trans h1.side h2.grows
  all_goals first
    | exact h2.baud.trans h1.baud | exact h2.tx.trans h1.tx
    | exact h2.lines.trans h1.lines | exact h2.cfg.trans h1.cfg | exact h2.returned.trans h1.returned
    | exact h2.par.trans h1.par | exact h2.side.trans h1.side | exact h2.pending.trans h1.pending
    | exact h2.stimIndex.trans h1.stimIndex | exact h2.transport.trans h1.transport | exact h2.gen.trans h1.gen
    | exact h2.accum.trans h1.accum

/-! Delivery -/

/-- The receive group after a delivery (R79). -/
def deliveredRx (w : Reg) (s : State) : Rx :=
  if s.rx.rbf then
    (if s.rx.receiveQueue.length < s.par.rxQueueCap then { s.rx with receiveQueue := s.rx.receiveQueue ++ [w] } else s.rx)
  else { s.rx with receiveReg := w &&& 0x03FF, rbf := true, unreadLines := 0 }

/-- The interrupt bookkeeping after a delivery (R79, R105). -/
def deliveredIrq (s : State) : Irq :=
  if s.rx.rbf then s.irq
  else if s.irq.rbfUnacked then { s.irq with stickyRbf := true } else { s.irq with rbfUnacked := true }

/-- The events of a delivery (R79). -/
def deliveredEvents (s : State) : List Entry :=
  if s.rx.rbf then
    (if s.rx.receiveQueue.length < s.par.rxQueueCap then [] else [eventEntry s (.log .rxQueueOverflow)])
  else if s.irq.rbfUnacked then [] else [eventEntry s .irqRBF]

/-- Everything a delivery does. -/
theorem deliver_eq (w : Reg) (s : State) :
    deliver w s = { s with rx := deliveredRx w s, irq := deliveredIrq s, history := s.history ++ deliveredEvents s } := by
  obtain ⟨baud, tx, rx, irq, lines, session, cfg, history, returned, stimIndex, par, side, pending, script, draws⟩ := s
  by_cases h1 : rx.rbf = true <;> by_cases h2 : rx.receiveQueue.length < par.rxQueueCap <;>
    by_cases h3 : irq.rbfUnacked = true <;>
    simp [deliver, deliverToRegister, enqueue, deliveredRx, deliveredIrq, deliveredEvents, requestRBF, logReason, emit,
      eventEntry, h1, h2, h3]

theorem deliveredEvents_now (s : State) : ∀ e ∈ deliveredEvents s, e.now = s.side.now := by
  intro e he
  unfold deliveredEvents at he
  split at he <;> split at he <;> simp_all [eventEntry]

theorem deliver_frame (w : Reg) (s : State) : RxFrame s (deliver w s) := by
  rw [deliver_eq]
  constructor <;> first
    | rfl | exact id | exact ⟨_, rfl, deliveredEvents_now s⟩
    | (show (deliveredRx w s).rxAccum = _; unfold deliveredRx; split <;> (try split) <;> rfl)

/-! Intake -/

/-- The state after a byte intake before any delivery: the transport was asked, the prefix may have moved. -/
structure Took (s r : State) : Prop where
  baud : r.baud = s.baud
  tx : r.tx = s.tx
  irq : r.irq = s.irq
  lines : r.lines = s.lines
  cfg : r.cfg = s.cfg
  returned : r.returned = s.returned
  par : r.par = s.par
  side : r.side = s.side
  pending : r.pending = s.pending
  stimIndex : r.stimIndex = s.stimIndex
  transport : r.session.transport = s.session.transport
  gen : r.session.gen = s.session.gen
  rx : r.rx = { s.rx with rxPrefix := r.rx.rxPrefix }
  history : ∃ new, r.history = s.history ++ new ∧ (∀ e ∈ new, e.now = s.side.now) ∧
    (∀ e ∈ new, (∃ x, e.record = .call x) ∨ (∃ x, e.record = .event (.log x))) ∧
    (r.session.available = s.session.available ∨
      (r.session.available = false ∧ eventEntry s (.log .transportFailed) ∈ new))

theorem Took.refl (s : State) : Took s s := by
  constructor <;> first | rfl | exact ⟨[], by simp, by simp, by simp, Or.inl rfl⟩

theorem Took.trans {s t u : State} (h1 : Took s t) (h2 : Took t u) : Took s u := by
  constructor
  case history =>
    obtain ⟨a, ha, hn, hk, hv⟩ := h1.history
    obtain ⟨b, hb, hn', hk', hv'⟩ := h2.history
    refine ⟨a ++ b, by rw [hb, ha, List.append_assoc], ?_, ?_, ?_⟩
    · intro e he
      rcases List.mem_append.mp he with h | h
      · exact hn e h
      · rw [hn' e h, h1.side]
    · intro e he
      rcases List.mem_append.mp he with h | h
      · exact hk e h
      · exact hk' e h
    · rcases hv' with h | ⟨h, h'⟩
      · rcases hv with h0 | ⟨h0, h0'⟩
        · exact Or.inl (h.trans h0)
        · exact Or.inr ⟨h.trans h0, List.mem_append_left _ h0'⟩
      · refine Or.inr ⟨h, List.mem_append_right _ ?_⟩
        have : eventEntry t (.log .transportFailed) = eventEntry s (.log .transportFailed) := by simp [eventEntry, h1.side]
        rwa [this] at h'
  case rx => rw [h2.rx, h1.rx]
  all_goals first
    | exact h2.baud.trans h1.baud | exact h2.tx.trans h1.tx | exact h2.irq.trans h1.irq
    | exact h2.lines.trans h1.lines | exact h2.cfg.trans h1.cfg | exact h2.returned.trans h1.returned
    | exact h2.par.trans h1.par | exact h2.side.trans h1.side | exact h2.pending.trans h1.pending
    | exact h2.stimIndex.trans h1.stimIndex | exact h2.transport.trans h1.transport | exact h2.gen.trans h1.gen

theorem Took.frame {s r : State} (h : Took s r) : RxFrame s r where
  baud := h.baud
  tx := h.tx
  lines := h.lines
  cfg := h.cfg
  returned := h.returned
  par := h.par
  side := h.side
  pending := h.pending
  stimIndex := h.stimIndex
  transport := h.transport
  gen := h.gen
  available := by
    obtain ⟨_, _, _, _, h1 | ⟨h1, _⟩⟩ := h.history
    · exact fun h2 => h1.trans h2
    · exact fun _ => h1
  accum := by rw [h.rx]
  grows := by
    obtain ⟨new, h1, h2, -, -⟩ := h.history
    exact ⟨new, h1, h2⟩

theorem took_setPrefix (p : Option Bool) (s : State) : Took s (setPrefix p s) := by
  constructor <;> first | rfl | exact ⟨[], by simp, by simp, by simp, Or.inl rfl⟩

theorem took_calledRead (k : Nat) (s : State) : Took s (calledRead k s) := by
  constructor <;> first
    | rfl | exact ⟨[callEntry s (.read k (readAnswer k s))], by simp [callEntry], by simp [callEntry], by simp [callEntry],
      Or.inl rfl⟩

theorem took_transportFailed (s : State) : Took s (transportFailed s) := by
  constructor <;> first
    | rfl | exact ⟨[eventEntry s (.log .transportFailed)], by simp [eventEntry], by simp [eventEntry], by simp [eventEntry],
      Or.inr ⟨rfl, by simp⟩⟩

theorem took_log (r : LogReason) (s : State) : Took s (logReason r s) := by
  constructor <;> first
    | rfl | exact ⟨[eventEntry s (.log r)], by simp [eventEntry], by simp [eventEntry], by simp [eventEntry], Or.inl rfl⟩

/-- The data half of a 9-bit intake takes nothing or delivers one word (R78). -/
theorem intake9Data_cases (n : Bool) (count : Nat) (s : State) :
    ∃ r, Took s r ∧ (intake9Data n count s = r ∨ ∃ w, intake9Data n count s = deliver w r) := by
  unfold intake9Data
  split
  · exact ⟨s, .refl s, Or.inl rfl⟩
  · split
    · exact ⟨_, (took_calledRead 1 s).trans (took_transportFailed _), Or.inl rfl⟩
    · exact ⟨_, took_calledRead 1 s, Or.inl rfl⟩
    · exact ⟨_, (took_calledRead 1 s).trans (took_setPrefix none _), Or.inr ⟨_, rfl⟩⟩

/-- Intake from a byte transport takes nothing or delivers one word (R73, R76, R78). -/
theorem intakeFromTransport_cases (count : Nat) (s : State) :
    ∃ r, Took s r ∧ (intakeFromTransport count s = r ∨ ∃ w, intakeFromTransport count s = deliver w r) := by
  unfold intakeFromTransport
  split
  · exact ⟨s, .refl s, Or.inl rfl⟩
  · split
    · exact ⟨s, .refl s, Or.inl rfl⟩
    · split
      · unfold intake9
        split
        · exact intake9Data_cases _ count s
        · unfold intake9Prefix
          split
          · exact ⟨s, .refl s, Or.inl rfl⟩
          · split
            · exact ⟨_, (took_calledRead 1 s).trans (took_transportFailed _), Or.inl rfl⟩
            · exact ⟨_, took_calledRead 1 s, Or.inl rfl⟩
            · next p _ _ =>
              simp only []
              split
              · obtain ⟨r, hr, h⟩ := intake9Data_cases (p.getLsbD 0) (count - 1)
                  (setPrefix (some (p.getLsbD 0)) (calledRead 1 s))
                exact ⟨r, ((took_calledRead 1 s).trans (took_setPrefix _ _)).trans hr, h⟩
              · exact ⟨_, (took_calledRead 1 s).trans (took_log .frameDesync _), Or.inl rfl⟩
      · unfold intake8
        simp only []
        have h0 := took_setPrefix none s
        split
        · exact ⟨_, h0, Or.inl rfl⟩
        · split
          · exact ⟨_, (h0.trans (took_calledRead 1 _)).trans (took_transportFailed _), Or.inl rfl⟩
          · exact ⟨_, h0.trans (took_calledRead 1 _), Or.inl rfl⟩
          · unfold acceptByte
            split
            · exact ⟨_, h0.trans (took_calledRead 1 _), Or.inl rfl⟩
            · exact ⟨_, h0.trans (took_calledRead 1 _), Or.inr ⟨_, rfl⟩⟩

/-- Without an available external backend nothing is taken from it (R73, R94). -/
theorem intakeFromTransport_closed (count : Nat) (s : State)
    (h : s.session.transport.external = false ∨ s.session.available = false) : intakeFromTransport count s = s := by
  unfold intakeFromTransport
  split
  · rfl
  · have h1 : (decide (s.session.transport = .none) || decide (s.session.transport = .loopback) ||
        !s.session.available) = true := by
      rcases h with h | h
      · cases h2 : s.session.transport <;> simp_all [Transport.external]
      · simp [h]
    rw [if_pos h1]

/-! The receive step -/

/-- A received word is taken: nothing, or one delivery, after at most the queue's head is removed (R73). -/
theorem takeWord_cases (count : Nat) (s : State) :
    (∃ w rest, s.rx.receiveQueue = w :: rest ∧ s.rx.rbf = false ∧
      takeWord count s = deliver w { s with rx := { s.rx with receiveQueue := rest } }) ∨
    ∃ r, Took s r ∧ (takeWord count s = r ∨ ∃ w, takeWord count s = deliver w r) := by
  unfold takeWord
  split
  · exact Or.inr (intakeFromTransport_cases count s)
  · next w rest h =>
    cases h2 : s.rx.rbf
    · exact Or.inl ⟨w, rest, h, rfl, rfl⟩
    · exact Or.inr (intakeFromTransport_cases count s)

theorem takeWord_frame (count : Nat) (s : State) : RxFrame s (takeWord count s) := by
  rcases takeWord_cases count s with ⟨w, rest, -, -, h⟩ | ⟨r, hr, h | ⟨w, h⟩⟩ <;> rw [h]
  · refine RxFrame.trans ?_ (deliver_frame w _)
    constructor <;> first | rfl | exact id | exact ⟨[], by simp, by simp⟩
  · exact hr.frame
  · exact hr.frame.trans (deliver_frame w r)

theorem detectBreak_frame (s : State) : RxFrame s (detectBreak s) := by
  constructor <;> first
    | rfl | exact id | exact ⟨[eventEntry s (.log .breakDetected)], rfl, by simp [eventEntry]⟩

theorem detectingStep_frame (s : State) : RxFrame s (detectingStep s) := by
  unfold detectingStep
  simp only []
  split
  · constructor <;> first | rfl | exact id | exact ⟨[eventEntry s (.log .breakHold)], rfl, by simp [eventEntry]⟩
  · constructor <;> first | rfl | exact id | exact ⟨[], by simp, by simp⟩

theorem rxStep_frame (count : Nat) (brk : Bool) (s : State) : RxFrame s (rxStep count brk s) := by
  unfold rxStep
  split
  · exact .refl s
  · split
    · exact detectingStep_frame s
    · split
      · exact (detectBreak_frame s).trans (takeWord_frame count _)
      · exact takeWord_frame count s

/-- What the receive break timer can do (R75). -/
theorem rxBreakTick_cases (s : State) :
    (s.rx.breakCounter ≤ 0 ∧ rxBreakTick s = s) ∨
    (1 < s.rx.breakCounter ∧
      rxBreakTick s = { s with rx := { s.rx with breakCounter := s.rx.breakCounter - 1 } }) ∨
    (s.rx.breakCounter = 1 ∧ rxBreakTick s = { s with
      rx := { s.rx with breakCounter := 0 }
      history := s.history ++ [eventEntry s (.log .breakClear)] }) := by
  rcases lt_trichotomy s.rx.breakCounter 1 with h | h | h
  · exact Or.inl ⟨by omega, by simp [rxBreakTick, show ¬ 0 < s.rx.breakCounter by omega]⟩
  · exact Or.inr (Or.inr ⟨h, by simp [rxBreakTick, h, logReason, emit, eventEntry]⟩)
  · exact Or.inr (Or.inl ⟨h, by
      simp [rxBreakTick, show 0 < s.rx.breakCounter by omega, show ¬ s.rx.breakCounter - 1 = 0 by omega]⟩)

theorem rxBreakTick_frame (s : State) : RxFrame s (rxBreakTick s) := by
  rcases rxBreakTick_cases s with ⟨-, h⟩ | ⟨-, h⟩ | ⟨-, h⟩ <;> rw [h]
  · exact .refl s
  · constructor <;> first | rfl | exact id | exact ⟨[], by simp, by simp⟩
  · constructor <;> first | rfl | exact id | exact ⟨_, rfl, by simp [eventEntry]⟩

/-! Overrun -/

/-- The receive group after a forced overrun (R80). -/
def overrunRx (s : State) : Rx :=
  { s.rx with overrun := true, receiveReg := 0, rbf := false, unreadLines := 0, rxPrefix := none }

/-- A forced overrun, by the answer to its flush (R80). -/
theorem forceOverrun_cases (s : State) :
    (flushAnswer s = .failure ∧ forceOverrun s = { s with
      rx := overrunRx s
      session := { s.session with available := false }
      script := { s.script with flushes := s.script.flushes.tail }
      draws := s.draws + 1
      history := s.history ++ [callEntry s (.flush .failure), eventEntry s (.log .transportFailed), eventEntry s .flush,
        eventEntry s (.log .overrun)] }) ∨
    (flushAnswer s = .value () ∧ forceOverrun s = { s with
      rx := overrunRx s
      script := { s.script with flushes := s.script.flushes.tail }
      draws := s.draws + 1
      history := s.history ++ [callEntry s (.flush (.value ())), eventEntry s .flush, eventEntry s (.log .overrun)] }) := by
  cases h : flushAnswer s with
  | failure =>
    refine Or.inl ⟨rfl, ?_⟩
    simp [forceOverrun, overrunRegister, overrunRx, flushTransport, h, logReason, emit, transportFailed, calledFlush,
      called, eventEntry, callEntry]
  | value u =>
    refine Or.inr ⟨rfl, ?_⟩
    simp [forceOverrun, overrunRegister, overrunRx, flushTransport, h, logReason, emit, calledFlush, called, eventEntry,
      callEntry]

/-- What the overrun part of a tick can do (R80). -/
theorem rxOverrunTick_cases (count : Nat) (s : State) :
    (overrunCounts count s = false ∧ overrunFires count s = false ∧ rxOverrunTick count s = setUnread 0 s) ∨
    (overrunCounts count s = true ∧ s.rx.unreadLines + 1 < 200 ∧ overrunFires count s = false ∧
      rxOverrunTick count s = setUnread (s.rx.unreadLines + 1) s) ∨
    (overrunCounts count s = true ∧ 200 ≤ s.rx.unreadLines + 1 ∧ overrunFires count s = true ∧
      rxOverrunTick count s = forceOverrun (setUnread (s.rx.unreadLines + 1) s)) := by
  by_cases h : overrunCounts count s = true
  · have h2 : s.cfg.cycleExact = false ∧ canReceive s = false ∧ 0 < count := by
      simpa [overrunCounts, and_assoc] using h
    by_cases h3 : 200 ≤ s.rx.unreadLines + 1
    · refine Or.inr (Or.inr ⟨h, h3, by simp [overrunFires, h, Config.overrunLines]; omega, ?_⟩)
      simp [rxOverrunTick, h2, setUnread, Config.overrunLines]
      omega
    · refine Or.inr (Or.inl ⟨h, by omega, by simp [overrunFires, h, Config.overrunLines]; omega, ?_⟩)
      simp [rxOverrunTick, h2, setUnread, Config.overrunLines]
      omega
  · have h1 : overrunCounts count s = false := by simpa using h
    refine Or.inl ⟨h1, by simp [overrunFires, h1], ?_⟩
    unfold rxOverrunTick
    split
    · rfl
    · next h2 =>
      split
      · next h3 => exact absurd h1 (by simpa [overrunCounts, and_assoc, h2, Nat.pos_iff_ne_zero] using h3)
      · rfl

theorem setUnread_frame (n : Nat) (s : State) : RxFrame s (setUnread n s) := by
  constructor <;> first | rfl | exact id | exact ⟨[], by simp, by simp⟩

theorem forceOverrun_frame (s : State) : RxFrame s (forceOverrun s) := by
  rcases forceOverrun_cases s with ⟨-, h⟩ | ⟨-, h⟩ <;> rw [h] <;> constructor <;> first
    | rfl | exact id | exact fun _ => rfl | exact ⟨_, rfl, by simp [eventEntry, callEntry]⟩

/-- The receive group after a forced overrun, whatever the flush answers (R80). -/
theorem forceOverrun_rx (s : State) : (forceOverrun s).rx = overrunRx s := by
  rcases forceOverrun_cases s with ⟨-, h⟩ | ⟨-, h⟩ <;> rw [h]

theorem rxOverrunTick_frame (count : Nat) (s : State) : RxFrame s (rxOverrunTick count s) := by
  rcases rxOverrunTick_cases count s with ⟨-, -, h⟩ | ⟨-, -, -, h⟩ | ⟨-, -, -, h⟩ <;> rw [h]
  · exact setUnread_frame _ s
  · exact setUnread_frame _ s
  · exact (setUnread_frame _ s).trans (forceOverrun_frame _)

/-! The tick -/

/-- What the poll leaves: the transport may have been asked and may have failed (R96). -/
theorem polled_took (s : State) : Took s (polled s) := by
  unfold polled
  split
  · have hc : Took s (calledReadAvailable s) := by
      constructor <;> first
        | rfl | exact ⟨[callEntry s (.readAvailable (readAvailableAnswer s))], by simp [callEntry], by simp [callEntry],
          by simp [callEntry], Or.inl rfl⟩
    split
    · exact hc.trans (took_transportFailed _)
    · exact hc
  · exact .refl s

theorem polled_rx (s : State) : (polled s).rx = s.rx := by
  unfold polled; split <;> (try split) <;> rfl

/-- The receive part of a tick leaves the receive frame but for the accumulator (R91). -/
theorem tickRx_eq (lc count : Nat) (brk : Bool) (s : State) :
    tickRx lc count brk s =
      if s.baud.rxPeriodCycles ≤ s.rx.rxAccum + lc then
        rxStep count brk { s with rx := { s.rx with rxAccum := s.rx.rxAccum + lc - s.baud.rxPeriodCycles } }
      else { s with rx := { s.rx with rxAccum := s.rx.rxAccum + lc } } := rfl

/-! The sources of the lines -/

/-- What `LineSource` leaves (R85). -/
theorem afterSource_took (s : State) : Took s (afterSource s) := by
  unfold afterSource
  split
  · have hc : Took s (calledGetLineStatus s) := by
      constructor <;> first
        | rfl | exact ⟨[callEntry s (.getLineStatus (getLineStatusAnswer s))], by simp [callEntry], by simp [callEntry],
          by simp [callEntry], Or.inl rfl⟩
    split
    · exact hc.trans (took_transportFailed _)
    · exact hc
  · exact .refl s

theorem afterSource_rx (s : State) : (afterSource s).rx = s.rx := by
  unfold afterSource; split <;> (try split) <;> rfl

/-- A backend with a line mechanism, in the rule's words (R85, R89). -/
theorem linesConnected_iff (s : State) :
    linesConnected s = true ↔
      ((s.session.transport = .realDevice ∨ s.session.transport = .sharedMemoryIpc) ∧ s.session.available = true) := by
  cases h : s.session.transport <;> simp [linesConnected, Transport.hasLines, h]

end Sys2Proof.Machine
end

