-- ==== Sys2Proof/Laws/Tick.lean ====
section
/-! SUPPORT. What the parts of a tick do to one another's state, said once, and the standing callback of a history. -/

namespace Sys2Proof.Machine

/-! The standing callback -/

/-- The callback that stands after more entries is theirs, or the one that stood (R22). -/
theorem lastSchedule_append (k : CallbackKind) (a b : List Entry) :
    lastSchedule k (a ++ b) = (lastSchedule k b).or (lastSchedule k a) := by
  induction a with
  | nil => simp [lastSchedule]
  | cons e a ih =>
    simp only [List.cons_append, lastSchedule, ih]
    cases lastSchedule k b <;> cases lastSchedule k a <;> simp

/-! The timers that do not run -/

theorem rxBreakTick_idle (s : State) (h : s.rx.breakCounter ≤ 0) : rxBreakTick s = s := by
  simp [rxBreakTick, not_lt.mpr h]

theorem breakTxTick_idle (t : Nat) (s : State) (h : s.tx.breakTxCounter = 0) : breakTxTick t s = s := by
  simp [breakTxTick, h]

theorem txTick_idle (t lc : Nat) (s : State) (h : s.tx.shiftState = .empty) : txTick t lc s = s := by
  simp [txTick, h]

/-- In cycle-exact mode only a stalled word is the tick's business (R63). -/
theorem txTick_cycleExact (t lc : Nat) (s : State) (h : s.cfg.cycleExact = true) (h2 : s.tx.shiftState ≠ .stalled) :
    txTick t lc s = s := by
  simp [txTick, h, h2]

/-! The parts before the transmit step -/

/-- The poll without an available external backend (R96). -/
theorem polled_closed (s : State) (h : s.session.transport.external = false ∨ s.session.available = false) :
    polled s = s := by
  rcases h with h | h <;> simp [polled, pollAsks, h]

/-- What the poll and the overrun leave unchanged (R90, steps 1 and 2). -/
theorem beforeTx_frame (count : Nat) (s : State) : RxFrame s (rxOverrunTick count (polled s)) :=
  (polled_took s).frame.trans (rxOverrunTick_frame count (polled s))

/-- With room in the register the overrun part only clears the count (R80). -/
theorem rxOverrunTick_receivable (count : Nat) (s : State) (h : canReceive s = true) :
    rxOverrunTick count s = setUnread 0 s := by
  simp [rxOverrunTick, h]

/-! The transmit part -/

/-- A retry, by whether there is an available backend (R61, R94, R95). -/
theorem txTick_stalled (t lc : Nat) (s : State) (h : s.tx.shiftState = .stalled) : txTick t lc s = complete t s := by
  simp [txTick, h]

/-! The receive part -/

/-- The state in which the receive part of a tick takes its step (R91). -/
def accumulated (n : Nat) (s : State) : State := { s with rx := { s.rx with rxAccum := n } }

theorem tickRx_crossing (lc count : Nat) (brk : Bool) (s : State) (h : s.baud.rxPeriodCycles ≤ s.rx.rxAccum + lc) :
    tickRx lc count brk s = rxStep count brk (accumulated (s.rx.rxAccum + lc - s.baud.rxPeriodCycles) s) := by
  rw [tickRx_eq, if_pos h]; rfl

theorem tickRx_waiting (lc count : Nat) (brk : Bool) (s : State) (h : ¬ s.baud.rxPeriodCycles ≤ s.rx.rxAccum + lc) :
    tickRx lc count brk s = accumulated (s.rx.rxAccum + lc) s := by
  rw [tickRx_eq, if_neg h]; rfl

/-- What the receive part of a tick leaves unchanged, its accumulator apart (R91). -/
theorem tickRx_frame (lc count : Nat) (brk : Bool) (s : State) :
    ∃ n, RxFrame (accumulated n s) (tickRx lc count brk s) := by
  by_cases h : s.baud.rxPeriodCycles ≤ s.rx.rxAccum + lc
  · exact ⟨_, by rw [tickRx_crossing lc count brk s h]; exact rxStep_frame _ _ _⟩
  · exact ⟨_, by rw [tickRx_waiting lc count brk s h]; exact .refl _⟩

/-- A receive step with the line idle and no break asked for takes a word (R73). -/
theorem rxStep_idle (count : Nat) (s : State) (h : s.rx.breakCounter = 0) : rxStep count false s = takeWord count s := by
  simp [rxStep, h]

end Sys2Proof.Machine
end

