-- ==== Sys2Proof/Laws/Claims.lean ====
section
/-! SUPPORT. The vocabulary of the statements (Safety.lean) in the operations' terms: a stimulus that brings a frame to its
end runs `Complete`, a receive tick is one `takeWord`, and the ends of both in the statements' own words. -/

namespace Sys2Proof.Machine

/-! The end of a frame -/

/-- The break window's counter and the receive group replaced. -/
def withTimers (n : Nat) (x : Rx) (s : State) : State := { s with tx := { s.tx with breakTxCounter := n }, rx := x }

theorem finish_withTimers (t n : Nat) (x : Rx) (s : State) (h : s.tx.breakTxCounter = 0 ↔ n = 0) :
    finish t (withTimers n x s) = withTimers n x (finish t s) := by
  cases hd : s.tx.dataPending
  · rw [finish_idle t s hd, finish_idle t (withTimers n x s) hd]; rfl
  · rw [finish_loads t s hd, finish_loads t (withTimers n x s) hd, load_eq, load_eq]
    simp only [withTimers, loadTx, emptiedTx, loadEvents, lastSentAfter, frame, loadEcho, loadFrame, h,
      Nat.pos_iff_ne_zero, ne_eq]
    rfl

/-- The state after a write of which the transport took `m` bytes (R61). -/
def wrote (rest : List Byte) (m : Nat) (s : State) : State :=
  let r := emit (.write rest m) (calledWrite rest s)
  { r with tx := { r.tx with emitIdx := r.tx.emitIdx + m } }

/-- The write when the transport takes `m` bytes (R61). -/
theorem writeRest_value (t : Nat) (rest : List Byte) (m : Nat) (s : State) (h : writeAnswer rest s = .value m) :
    writeRest t rest s =
      if s.tx.emitIdx + m < s.tx.emitBuf.length then stall (wrote rest m s) else finish t (wrote rest m s) := by
  unfold writeRest; rw [h]; rfl

/-- The write when the transport fails (R61, R95). -/
theorem writeRest_failure (t : Nat) (rest : List Byte) (s : State) (h : writeAnswer rest s = .failure) :
    writeRest t rest s = finish t (transportFailed (calledWrite rest s)) := by
  unfold writeRest; rw [h]

theorem writeRest_withTimers (t : Nat) (rest : List Byte) (n : Nat) (x : Rx) (s : State)
    (h : s.tx.breakTxCounter = 0 ↔ n = 0) : writeRest t rest (withTimers n x s) = withTimers n x (writeRest t rest s) := by
  cases ha : writeAnswer rest s with
  | failure =>
    rw [writeRest_failure t rest s ha, writeRest_failure t rest (withTimers n x s) ha]
    exact finish_withTimers t n x (transportFailed (calledWrite rest s)) h
  | value m =>
    rw [writeRest_value t rest m s ha, writeRest_value t rest m (withTimers n x s) ha]
    by_cases hc : s.tx.emitIdx + m < s.tx.emitBuf.length
    · rw [if_pos hc, if_pos (by simpa [withTimers] using hc)]; rfl
    · rw [if_neg hc, if_neg (by simpa [withTimers] using hc)]; exact finish_withTimers t n x (wrote rest m s) h

theorem tryEmit_withTimers (t n : Nat) (x : Rx) (s : State) (h : s.tx.breakTxCounter = 0 ↔ n = 0) :
    tryEmit t (withTimers n x s) = withTimers n x (tryEmit t s) := by
  unfold tryEmit
  simp only []
  rw [show writeAvailableAnswer (withTimers n x s) = writeAvailableAnswer s from rfl]
  cases writeAvailableAnswer s with
  | failure => exact finish_withTimers t n x (transportFailed (calledWriteAvailable _ s)) h
  | value b => cases b with
    | false => rfl
    | true => exact writeRest_withTimers t _ n x (calledWriteAvailable _ s) h

/-- `Complete` reads and writes no receiver field, and of the break window it reads only whether one runs (R57, R60). -/
theorem complete_withTimers (t n : Nat) (x : Rx) (s : State) (h : s.tx.breakTxCounter = 0 ↔ n = 0) :
    complete t (withTimers n x s) = withTimers n x (complete t s) := by
  unfold complete
  rw [show (withTimers n x s).session = s.session from rfl]
  split
  · exact finish_withTimers t n x s h
  · split
    · exact finish_withTimers t n x s h
    · exact tryEmit_withTimers t n x s h

theorem finish_breakTxCounter (t : Nat) (s : State) : (finish t s).tx.breakTxCounter = s.tx.breakTxCounter := by
  cases hd : s.tx.dataPending
  · rw [finish_idle t s hd]; rfl
  · rw [finish_loads t s hd, load_eq]; rfl

theorem writeRest_breakTxCounter (t : Nat) (rest : List Byte) (s : State) :
    (writeRest t rest s).tx.breakTxCounter = s.tx.breakTxCounter := by
  cases h : writeAnswer rest s with
  | failure => rw [writeRest_failure t rest s h, finish_breakTxCounter]; rfl
  | value m =>
    rw [writeRest_value t rest m s h]
    split
    · rfl
    · rw [finish_breakTxCounter]; rfl

theorem complete_breakTxCounter (t : Nat) (s : State) : (complete t s).tx.breakTxCounter = s.tx.breakTxCounter := by
  unfold complete tryEmit
  simp only []
  split
  · exact finish_breakTxCounter t s
  · split
    · exact finish_breakTxCounter t s
    · split
      · rw [finish_breakTxCounter]; rfl
      · rfl
      · rw [writeRest_breakTxCounter]; rfl

/-! The parts of a tick -/

/-- The gate in the terms of the statements (R72). -/
theorem canReceive_iff (s : State) : canReceive s = true ↔ GateOpen s := by
  unfold canReceive GateOpen
  simp only [Bool.or_eq_true, Bool.not_eq_true', decide_eq_true_eq, or_assoc]

/-- The poll in the terms of the statements (R96). -/
theorem polls_polled {s p : State} {count : Nat} {brk : Bool} (h : Polls s count brk p) :
    pollResult s = (count, brk) ∧ p = polled s := by
  cases h with
  | unasked g =>
    refine ⟨?_, (polled_closed s g).symm⟩
    have hp : pollAsks s = false := by rcases g with g | g <;> simp [pollAsks, g]
    by_cases hl : s.session.transport = .loopback <;> simp [pollResult, hl, hp, breakOut]
  | answered _ _ polls e a p =>
    have hp : pollAsks s = true := by simp [pollAsks, e, a]
    have hr : readAvailableAnswer s = .value (count, brk) := by simp [readAvailableAnswer, drawn, p]
    have hl : s.session.transport ≠ .loopback := by intro h; simp [h, Transport.external] at e
    exact ⟨by simp [pollResult, hl, hp, hr], by simp [polled, hp, hr, calledReadAvailable, called, p, callEntry]⟩
  | failed polls e a p =>
    have hp : pollAsks s = true := by simp [pollAsks, e, a]
    have hr : readAvailableAnswer s = .failure := by simp [readAvailableAnswer, drawn, p]
    have hl : s.session.transport ≠ .loopback := by intro h; simp [h, Transport.external] at e
    exact ⟨by simp [pollResult, hl, hp, hr], by
      simp [polled, hp, hr, calledReadAvailable, called, p, callEntry, eventEntry, transportFailed, logReason, emit]⟩

/-- The timers of a tick that neither is in a receive break nor ends a break window (R92). -/
theorem tickTimers_quiet (t : Nat) (s : State) (h : s.rx.breakCounter = 0) (h1 : s.tx.breakTxCounter ≠ 1) :
    tickTimers t s = withTimers (s.tx.breakTxCounter - 1) s.rx s := by
  unfold tickTimers
  rw [rxBreakTick_idle _ (by omega)]
  rcases breakTxTick_cases t s with ⟨h0, h⟩ | ⟨-, h⟩ | ⟨h0, -, h⟩ | ⟨h0, -, -, h⟩
  · rw [h]; simp [withTimers, h0]; rw [← h0]
  · rw [h]; rfl
  · exact absurd h0 h1
  · exact absurd h0 h1

theorem polled_fields (s : State) :
    (polled s).tx = s.tx ∧ (polled s).baud = s.baud ∧ (polled s).side = s.side ∧ (polled s).cfg = s.cfg := by
  unfold polled; split <;> (try split) <;> exact ⟨rfl, rfl, rfl, rfl⟩

/-- The overrun part of a tick that is not the 200th of a run (R80). -/
theorem rxOverrunTick_rests (count : Nat) (p : State) (h : ¬ GateOpen p → 0 < count → p.rx.unreadLines + 1 < 200) :
    overrunFires count p = false ∧
      rxOverrunTick count p = setUnread (if GateOpen p ∨ count = 0 then 0 else p.rx.unreadLines + 1) p := by
  rcases rxOverrunTick_cases count p with ⟨hc, hf, ht⟩ | ⟨hc, -, hf, ht⟩ | ⟨hc, h2, -, -⟩
  · refine ⟨hf, ?_⟩
    rw [ht, if_pos]
    by_cases hg : GateOpen p
    · exact Or.inl hg
    · refine Or.inr (by_contra fun h0 => ?_)
      have hr : canReceive p = false := by rw [← Bool.not_eq_true, canReceive_iff]; exact hg
      have hx : p.cfg.cycleExact = false := by
        rw [← Bool.not_eq_true]; exact fun hx => hg (Or.inr (Or.inl hx))
      simp [overrunCounts, hr, hx, h0] at hc
  all_goals
    have hg : ¬ GateOpen p := by
      rw [← canReceive_iff]; simp [overrunCounts] at hc; simp [hc]
    have h0 : 0 < count := by simp [overrunCounts] at hc; omega
  · exact ⟨hf, by rw [ht, if_neg (by rintro (h | h); exacts [hg h, by omega])]⟩
  · have := h hg h0; omega

/-- A tick in its three parts before the timers, when its poll is `Polls` and it forces no overrun (R90). -/
theorem tickBody_eq {lc count : Nat} {brk : Bool} {s p : State} (h : Polls s count brk p)
    (h2 : ¬ GateOpen p → 0 < count → p.rx.unreadLines + 1 < 200) :
    tickBody lc s = tickTimers s.side.now (tickRx lc count brk (txTick s.side.now lc
      (setUnread (if GateOpen p ∨ count = 0 then 0 else p.rx.unreadLines + 1) p))) := by
  obtain ⟨hr, rfl⟩ := polls_polled h
  obtain ⟨hf, ho⟩ := rxOverrunTick_rests count (polled s) h2
  obtain ⟨-, -, p3, -⟩ := polled_fields s
  unfold tickBody tickPipelines
  simp only [hr, countAfterOverrun, hf, ho, Bool.false_eq_true, if_false]
  simp [setUnread, p3]

/-- What the poll leaves (R96). -/
theorem polls_keeps {s p : State} {count : Nat} {brk : Bool} (h : Polls s count brk p) :
    p.rx = s.rx ∧ p.tx = s.tx ∧ p.baud = s.baud ∧ p.side = s.side ∧ p.cfg = s.cfg ∧ p.par = s.par ∧
      p.session.transport = s.session.transport ∧ p.session.gen = s.session.gen ∧
      p.script.reads = s.script.reads ∧ p.script.writeAvailables = s.script.writeAvailables ∧
      p.script.writes = s.script.writes := by
  cases h <;> simp

/-- A receive step that finds nothing to take: in 8-bit mode it forgets a 9-bit prefix (R73, R76). -/
theorem takeWord_rests (count : Nat) (v : State) (h : v.rx.rbf = true ∨ v.rx.receiveQueue = [])
    (h2 : count = 0 ∨ ¬ GateOpen v) :
    takeWord count v = { v with rx := { v.rx with
      rxPrefix := if GateOpen v ∧ v.baud.period.getLsbD 15 = false ∧ v.session.transport.external = true ∧
        v.session.available = true then none else v.rx.rxPrefix } } := by
  have ht : takeWord count v = intakeFromTransport count v := by
    unfold takeWord
    cases hq : v.rx.receiveQueue with
    | nil => rfl
    | cons w rest => simp only [hq] at h; simp at h; simp [h]
  rw [ht]
  by_cases hg : GateOpen v
  · have hc : count = 0 := by rcases h2 with h2 | h2; exacts [h2, absurd hg h2]
    by_cases ho : v.session.transport.external = true ∧ v.session.available = true
    · have h5 : v.session.transport ≠ .none ∧ v.session.transport ≠ .loopback := by
        constructor <;> (intro h; simp [h, Transport.external] at ho)
      cases hn : v.baud.period.getLsbD 15
      · have hn' : ninebit v.baud.period = false := hn
        simp [intakeFromTransport, (canReceive_iff v).mpr hg, h5, ho, hn', intake8, hc, setPrefix, hg]
      · have hn' : ninebit v.baud.period = true := hn
        have h9 : intake9 0 v = v := by unfold intake9 intake9Data intake9Prefix; split <;> rfl
        simp [intakeFromTransport, (canReceive_iff v).mpr hg, h5, ho, hn', hc, h9]
    · have hcl : v.session.transport.external = false ∨ v.session.available = false := by
        rw [← Bool.not_eq_true, ← Bool.not_eq_true]; exact not_and_or.mp ho
      rw [intakeFromTransport_closed _ _ hcl, if_neg (by rintro ⟨-, -, h⟩; exact ho h)]
  · have hr : canReceive v = false := by rw [← Bool.not_eq_true, canReceive_iff]; exact hg
    rw [if_neg (fun h => hg h.1)]
    simp [intakeFromTransport, hr]

/-- A quiet tick is its transmit part, with the receiver's part beside it (R90): the prefix that an 8-bit receive step
forgets stays when the transmit part lost the backend. -/
theorem quiet_tickBody {lc count : Nat} {brk : Bool} {s p u : State} (poll : Polls s count brk p)
    (clear : s.rx.breakCounter = 0) (noOverrun : ¬ GateOpen s → 0 < count → s.rx.unreadLines + 1 < 200)
    (step : Crosses lc s → brk = false ∧ (s.rx.rbf = true ∨ s.rx.receiveQueue = []) ∧ (count = 0 ∨ ¬ GateOpen s))
    (hb : s.tx.breakTxCounter ≠ 1) (hbk : u.tx.breakTxCounter = s.tx.breakTxCounter)
    (hu : txTick s.side.now lc (setUnread (if GateOpen p ∨ count = 0 then 0 else p.rx.unreadLines + 1) p) = u) :
    tickBody lc s = withTimers (s.tx.breakTxCounter - 1) { restedRx lc count p with
      rxPrefix := if u.session.available then (restedRx lc count p).rxPrefix else s.rx.rxPrefix } u := by
  obtain ⟨k1, k2, k3, k4, k5, k6, k7, k8, k9, k10, k11⟩ := polls_keeps poll
  have hg : GateOpen p ↔ GateOpen s := by simp only [GateOpen, k1, k5, k7]
  have hcr : Crosses lc p ↔ Crosses lc s := by simp only [Crosses, k1, k3]
  have hfr := txTick_frame s.side.now lc (setUnread (if GateOpen p ∨ count = 0 then 0 else p.rx.unreadLines + 1) p)
  rw [hu] at hfr
  rw [tickBody_eq poll (by rw [hg, k1]; exact noOverrun), hu]
  have hux : u.rx = { p.rx with unreadLines := if GateOpen p ∨ count = 0 then 0 else p.rx.unreadLines + 1 } := hfr.rx
  have hub : u.baud = p.baud := hfr.baud
  have hav : u.session.available = true → p.session.available = true := by
    intro h; by_contra hp; exact absurd (hfr.available (by simpa [setUnread] using hp)) (by simp [h])
  have hut : u.session.transport = p.session.transport := hfr.transport
  have hugate : GateOpen u ↔ GateOpen p := by
    have hc : u.cfg = p.cfg := hfr.cfg
    simp only [GateOpen, hux, hc, hut]
  by_cases hx : Crosses lc s
  · obtain ⟨rfl, hq, hc⟩ := step hx
    have hx2 : u.baud.rxPeriodCycles ≤ u.rx.rxAccum + lc := by rw [hux, hub]; exact hcr.mpr hx
    rw [tickRx_crossing _ _ _ _ hx2, rxStep_idle _ _ (by simp [accumulated, hux, k1, clear]),
      takeWord_rests _ _ (by simpa [accumulated, hux, k1] using hq)
        (by rcases hc with hc | hc; exacts [Or.inl hc, Or.inr (fun h => hc (hg.mp (hugate.mp h)))])]
    rw [tickTimers_quiet _ _ (by simp [accumulated, hux, k1, clear]) (by simpa [accumulated, hbk] using hb)]
    have hga : GateOpen (accumulated (u.rx.rxAccum + lc - u.baud.rxPeriodCycles) u) ↔ GateOpen p := hugate
    simp only [withTimers, restedRx, accumulatedTo, hcr.mpr hx, if_true, true_and, hga]
    simp only [accumulated, hbk, hux, hub, hut]
    cases ha : u.session.available
    · simp [k1]
    · simp [hav ha]
  · have hx2 : ¬ u.baud.rxPeriodCycles ≤ u.rx.rxAccum + lc := by rw [hux, hub]; exact fun h => hx (hcr.mp h)
    rw [tickRx_waiting _ _ _ _ hx2,
      tickTimers_quiet _ _ (by simp [accumulated, hux, k1, clear]) (by simpa [accumulated, hbk] using hb)]
    have hx3 : ¬ Crosses lc p := fun h => hx (hcr.mp h)
    simp only [withTimers, restedRx, accumulatedTo, hx3, if_false, false_and, accumulated, hbk, hux, hub]
    simp [k1]

/-- A quiet tick whose transmit part is `Complete` on `c`, the rest of the tick being `r` (R90). -/
theorem quiet_exec {lc count : Nat} {brk : Bool} {s p c r : State} (poll : Polls s count brk p)
    (clear : s.rx.breakCounter = 0) (noOverrun : ¬ GateOpen s → 0 < count → s.rx.unreadLines + 1 < 200)
    (step : Crosses lc s → brk = false ∧ (s.rx.rbf = true ∨ s.rx.receiveQueue = []) ∧ (count = 0 ∨ ¬ GateOpen s))
    (hb : s.tx.breakTxCounter ≠ 1) (hbk : c.tx.breakTxCounter = s.tx.breakTxCounter)
    (hu : txTick s.side.now lc (setUnread (if GateOpen p ∨ count = 0 then 0 else p.rx.unreadLines + 1) p) =
      complete s.side.now c)
    (hr : withTimers (s.tx.breakTxCounter - 1) (restedRx lc count p) c = r) :
    exec (.tick lc) s = .next { complete s.side.now r with rx := { r.rx with
      rxPrefix := if (complete s.side.now r).session.available then r.rx.rxPrefix else s.rx.rxPrefix } } := by
  show Host.Outcome.next (tickBody lc s) = _
  rw [quiet_tickBody poll clear noOverrun step hb ((complete_breakTxCounter _ c).trans hbk) hu, ← hr,
    complete_withTimers _ _ _ c (by rw [hbk]; omega)]
  rfl

/-- A stimulus that brings the frame to its end runs `Complete` (R60, R63, R65); where that loses the backend, the tick's
receive step forgets no prefix. -/
theorem handsOver_exec {i : Instr} {s r : State} (h : HandsOver i s r) :
    exec i s = .next { complete s.side.now r with rx := { r.rx with
      rxPrefix := if (complete s.side.now r).session.available then r.rx.rxPrefix else s.rx.rxPrefix } } := by
  cases h with
  | firing g e d n due =>
    have hf := (complete_frame s.side.now s).rx
    simp [exec, execFireTxDone, fireTxDone, g, e, d, n, Nat.not_lt.mpr due]
    rw [← hf]
  | @crossing lc s r q e d n c =>
    cases q with
    | @tick count brk p poll clear no step =>
      obtain ⟨-, k2, -, -, k5, -⟩ := polls_keeps poll
      refine quiet_exec (c := { setUnread (if GateOpen p ∨ count = 0 then 0 else p.rx.unreadLines + 1) p with
        tx := { s.tx with txAccum := s.tx.txAccum + lc - s.tx.txFrameCycles } }) poll clear no step (by omega) rfl ?_ ?_
      · simp [txTick, setUnread, k2, k5, e, d, n, c]
      · simp [withTimers, setUnread, n]
  | @retry lc s r q e d =>
    cases q with
    | @tick count brk p poll clear no step =>
      obtain ⟨-, k2, -, -, k5, -⟩ := polls_keeps poll
      refine quiet_exec (c := setUnread (if GateOpen p ∨ count = 0 then 0 else p.rx.unreadLines + 1) p) poll clear no step
        d (by simp [setUnread, k2]) ?_ ?_
      · simp [txTick, setUnread, k2, e]
      · simp [withTimers, setUnread, k2]

/-- `Complete` without an available external backend (R60). -/
theorem complete_closed (t : Nat) (s : State)
    (h : s.session.transport = .none ∨ s.session.transport = .loopback ∨ s.session.available = false) :
    complete t s = finish t s := by
  rcases h with h | h | h <;> simp [complete, h]

/-- `Complete` on an available external backend (R60). -/
theorem complete_open (t : Nat) (s : State) (h : s.session.transport.external = true) (h2 : s.session.available = true) :
    complete t s = tryEmit t s := by
  cases hk : s.session.transport <;> simp_all [complete, Transport.external]

theorem finish_emitIdx (t k : Nat) (s : State) : finish t { s with tx := { s.tx with emitIdx := k } } = finish t s := by
  unfold finish emptyShifter; rfl

/-- `Finish` in the terms of the statements (R62, R57). -/
theorem finish_eq_frameEnded (r : State) : finish r.side.now r = frameEnded r := by
  cases hd : r.tx.dataPending
  · rw [finish_idle _ _ hd]; simp [frameEnded, hd, emptiedTx, lastSentAfter_eq, lastByte]
  · rw [finish_loads _ _ hd, load_eq]
    have hb : dataByte r.tx.holding = BitVec.ofNat 8 r.tx.holding.toNat := by
      apply BitVec.eq_of_toNat_eq; simp [dataByte]
    cases hn : ninebit r.baud.period <;>
      simp [frameEnded, hd, loadedTx, loadTx, emptiedTx, loadEvents, loadedEvents, lastSentAfter_eq, lastByte, loadFrame,
        loadEcho, rateCount_eq, frameBits_eq, frame, ninebit, ninthBit, hb, prefixByte, bitValue, echoWord, eventEntry] <;>
      simp_all [ninebit, and_assoc]

/-- What a stimulus leaves of the frame it brings to its end, and of a prefix where there is no backend to read. -/
theorem handsOver_keeps {i : Instr} {s r : State} (h : HandsOver i s r) :
    r.baud = s.baud ∧ r.side = s.side ∧ r.par = s.par ∧ r.cfg = s.cfg ∧
      r.session.gen = s.session.gen ∧ r.session.transport = s.session.transport ∧
      r.tx.emitBuf = s.tx.emitBuf ∧ r.tx.emitIdx = s.tx.emitIdx ∧ r.tx.dataPending = s.tx.dataPending ∧
      r.tx.holding = s.tx.holding ∧ r.tx.lastSent = s.tx.lastSent ∧ r.tx.loopQueue = s.tx.loopQueue ∧
      r.tx.txDoneAt = s.tx.txDoneAt ∧ r.tx.txFrozenRem = s.tx.txFrozenRem ∧
      (r.tx.breakTxCounter = 0 ↔ s.tx.breakTxCounter = 0) ∧
      r.script.writeAvailables = s.script.writeAvailables ∧ r.script.writes = s.script.writes ∧
      (r.session.transport.external = false ∨ r.session.available = false → r.rx.rxPrefix = s.rx.rxPrefix) := by
  cases h with
  | firing => simp
  | crossing q n =>
    cases q with
    | tick poll =>
      obtain ⟨k1, k2, k3, k4, k5, k6, k7, k8, k9, k10, k11⟩ := polls_keeps poll
      refine ⟨k3, k4, k6, k5, k8, k7, rfl, rfl, rfl, rfl, rfl, rfl, rfl, rfl, Iff.rfl, k10, k11, fun hc => ?_⟩
      rw [show s.rx = _ from k1.symm]
      exact if_neg (by rintro ⟨-, -, -, he, ha⟩; rcases hc with hc | hc <;> simp_all)
  | retry q e d =>
    cases q with
    | tick poll =>
      obtain ⟨k1, k2, k3, k4, k5, k6, k7, k8, k9, k10, k11⟩ := polls_keeps poll
      refine ⟨k3, k4, k6, k5, k8, k7, rfl, rfl, rfl, rfl, rfl, rfl, rfl, rfl, by simp; omega, k10, k11, fun hc => ?_⟩
      rw [show s.rx = _ from k1.symm]
      exact if_neg (by rintro ⟨-, -, -, he, ha⟩; rcases hc with hc | hc <;> simp_all)

/-- With no backend the stimulus is `Finish` (R60, R62). -/
theorem handsOver_closed {i : Instr} {s r : State} (h : HandsOver i s r)
    (hb : r.session.transport = .none ∨ r.session.transport = .loopback ∨ r.session.available = false) :
    exec i s = .next (frameEnded r) := by
  have hside := (handsOver_keeps h).2.1
  have hp := (handsOver_keeps h).2.2.2.2.2.2.2.2.2.2.2.2.2.2.2.2.2 (by
    rcases hb with hb | hb | hb <;> simp [hb, Transport.external])
  rw [handsOver_exec h, complete_closed _ _ hb, ← hside, ← finish_eq_frameEnded, ← hp]
  have hf := (finish_frame r.side.now r).rx
  simp only [ite_self]
  rw [← hf]

/-- On an available backend the stimulus is `TryEmit` (R60, R61); where that loses the backend, no prefix is forgotten. -/
theorem handsOver_open {i : Instr} {s r : State} (h : HandsOver i s r) (he : r.session.transport.external = true)
    (ha : r.session.available = true) :
    exec i s = .next { tryEmit s.side.now r with rx := { r.rx with
      rxPrefix := if (tryEmit s.side.now r).session.available then r.rx.rxPrefix else s.rx.rxPrefix } } := by
  rw [handsOver_exec h, complete_open _ _ he ha]

/-- `Deliver` in the terms of the statements (R79). -/
theorem deliver_eq_delivered (w : Reg) (s : State) : deliver w s = delivered w s := by
  cases h : s.rx.rbf
  · cases h2 : s.irq.rbfUnacked <;> simp [deliver, deliverToRegister, delivered, h, h2, requestRBF, emit, eventEntry]
  · simp only [deliver, h, enqueue, delivered, if_true]; rfl

/-! A receive step -/

/-- The transmit part of a tick in which no frame ends, in the operations' terms (R63); it moves no receiver field. -/
theorem txRests_txTick {lc t n : Nat} {p u : State} (h : TxRests lc p u) :
    txTick t lc (setUnread n p) = setUnread n u := by
  cases h with
  | idle e => simp [txTick, setUnread, e]
  | timed d c => rcases c with c | c <;> simp [txTick, setUnread, d, c]; intro _ h; omega
  | counts d c n s => simp [txTick, setUnread, d, c, n, Nat.not_le.mpr s]
  | full more st e a r =>
    have hs : (setUnread n p).tx.shiftState = .stalled := st
    rw [txTick_stalled _ _ _ hs, complete_open _ (setUnread n p) e a]
    have hw : writeAvailableAnswer (setUnread n p) = .value false := by
      simp [writeAvailableAnswer, setUnread, drawn, r]
    simp only [tryEmit, hw]
    simp only [stall, calledWriteAvailable, called, hw]
    simp [setUnread, callEntry, r]
    rw [← st]

/-- What the transmit part leaves when no frame ends. -/
theorem txRests_keeps {lc : Nat} {p u : State} (h : TxRests lc p u) :
    u.rx = p.rx ∧ u.baud = p.baud ∧ u.side = p.side ∧ u.cfg = p.cfg ∧ u.par = p.par ∧ u.session = p.session ∧
      u.script.reads = p.script.reads ∧ u.tx.breakTxCounter = p.tx.breakTxCounter := by
  cases h <;> simp

/-- The transmit group replaced. -/
def withTx (x : Tx) (s : State) : State := { s with tx := x }

theorem deliver_withTx (w : Reg) (x : Tx) (s : State) : deliver w (withTx x s) = withTx x (deliver w s) := by
  rw [deliver_eq, deliver_eq]; rfl

theorem intake9Data_withTx (n : Bool) (count : Nat) (x : Tx) (s : State) :
    intake9Data n count (withTx x s) = withTx x (intake9Data n count s) := by
  unfold intake9Data
  rw [show readAnswer 1 (withTx x s) = readAnswer 1 s from rfl]
  split
  · rfl
  · split
    · rfl
    · rfl
    · exact deliver_withTx _ x (setPrefix none (calledRead 1 s))

theorem intakeFromTransport_withTx (count : Nat) (x : Tx) (s : State) :
    intakeFromTransport count (withTx x s) = withTx x (intakeFromTransport count s) := by
  unfold intakeFromTransport
  rw [show canReceive (withTx x s) = canReceive s from rfl, show (withTx x s).session = s.session from rfl,
    show (withTx x s).baud = s.baud from rfl]
  split
  · rfl
  split
  · rfl
  split
  · unfold intake9
    rw [show (withTx x s).rx = s.rx from rfl]
    split
    · exact intake9Data_withTx _ count x s
    · unfold intake9Prefix
      rw [show readAnswer 1 (withTx x s) = readAnswer 1 s from rfl]
      split
      · rfl
      split
      · rfl
      · rfl
      · simp only []
        rw [show (calledRead 1 (withTx x s)).par = (calledRead 1 s).par from rfl]
        split
        · exact intake9Data_withTx _ _ x (setPrefix _ (calledRead 1 s))
        · rfl
  · unfold intake8
    simp only []
    split
    · rfl
    · rw [show readAnswer 1 (setPrefix none (withTx x s)) = readAnswer 1 (setPrefix none s) from rfl]
      split
      · rfl
      · rfl
      · unfold acceptByte
        rw [show (calledRead 1 (setPrefix none (withTx x s))).cfg = (calledRead 1 (setPrefix none s)).cfg from rfl]
        split
        · rfl
        · exact deliver_withTx _ x (calledRead 1 (setPrefix none s))

/-- A receive step reads and writes no transmit field (R73). -/
theorem takeWord_withTx (count : Nat) (x : Tx) (s : State) :
    takeWord count (withTx x s) = withTx x (takeWord count s) := by
  unfold takeWord
  rw [show (withTx x s).rx = s.rx from rfl]
  split
  · exact intakeFromTransport_withTx count x s
  · split
    · exact intakeFromTransport_withTx count x s
    · exact deliver_withTx _ x { s with rx := { s.rx with receiveQueue := _ } }

/-- A receive step that takes a word moves no break counter (R73, R79). -/
theorem takeWord_breakCounter (count : Nat) (s : State) :
    (takeWord count s).rx.breakCounter = s.rx.breakCounter := by
  have hd : ∀ w (v : State), (deliver w v).rx.breakCounter = v.rx.breakCounter := by
    intro w v; rw [deliver_eq_delivered]; unfold delivered; split <;> (try split) <;> rfl
  rcases takeWord_cases count s with ⟨w, rest, -, -, h⟩ | ⟨r, hr, h | ⟨w, h⟩⟩ <;> rw [h]
  · rw [hd]
  · rw [hr.rx]
  · rw [hd, hr.rx]

/-- What a receive tick leaves before the taking. -/
theorem receives_keeps {lc count : Nat} {s r : State} (h : Receives lc count s r) :
    GateOpen r ∧ r.session.transport = s.session.transport ∧ r.baud = s.baud ∧ r.rx.rbf = s.rx.rbf ∧
      r.rx.receiveQueue = s.rx.receiveQueue ∧ r.rx.rxPrefix = s.rx.rxPrefix ∧ r.script.reads = s.script.reads ∧
      r.cfg = s.cfg ∧ r.par = s.par ∧ r.side = s.side ∧
      (0 < count → r.session = s.session ∧ s.session.transport.external = true ∧ s.session.available = true) := by
  cases h with
  | @tick brk p u poll tr go clear gate cr =>
    obtain ⟨k1, k2, k3, k4, k5, k6, k7, k8, k9, -⟩ := polls_keeps poll
    obtain ⟨m1, m2, m3, m4, m5, m6, m7, m8⟩ := txRests_keeps tr
    have hx : u.rx = s.rx := m1.trans k1
    have ht : u.session.transport = s.session.transport := by rw [m6]; exact k7
    refine ⟨?_, ht, m2.trans k3, by simp [hx], by simp [hx], by simp [hx], m7.trans k9, m4.trans k5, m5.trans k6,
      m3.trans k4, fun h0 => ?_⟩
    · simp only [GateOpen, hx, ht, m4.trans k5] at *; exact gate
    · cases poll with
      | unasked => omega
      | answered _ _ _ e a => exact ⟨m6, e, a⟩
      | failed => omega

/-- A tick whose receive step may take something is that taking (R73). -/
theorem receives_exec {lc count : Nat} {s r : State} (h : Receives lc count s r) :
    exec (.tick lc) s = .next (takeWord count r) := by
  cases h with
  | @tick brk p u poll tr go clear gate cr =>
    obtain ⟨k1, k2, k3, k4, k5, k6, k7, k8, k9, -⟩ := polls_keeps poll
    obtain ⟨m1, m2, m3, m4, m5, m6, m7, m8⟩ := txRests_keeps tr
    have hx : u.rx = s.rx := m1.trans k1
    have hg : GateOpen p := by simp only [GateOpen, k1, k5, k7]; exact gate
    show Host.Outcome.next (tickBody lc s) = _
    rw [tickBody_eq poll (fun h => absurd hg h), if_pos (Or.inl hg), txRests_txTick tr,
      tickRx_crossing _ _ _ _ (by simpa [setUnread, hx, m2, k3] using cr)]
    have hs : rxStep count brk (accumulated ((setUnread 0 u).rx.rxAccum + lc - (setUnread 0 u).baud.rxPeriodCycles)
        (setUnread 0 u)) = takeWord count { u with
          rx := { u.rx with
            unreadLines := 0
            rxAccum := accumulatedTo lc s
            breakCounter := if brk then -1 else 0
            breakDelay := if brk then 1 else u.rx.breakDelay }
          history := u.history ++ (if brk then [eventEntry s (.log .breakDetected)] else []) } := by
      have hc : u.rx.breakCounter = 0 := by rw [hx]; exact clear
      have ha : accumulatedTo lc s = u.rx.rxAccum + lc - u.baud.rxPeriodCycles := by
        rw [accumulatedTo, if_pos cr, hx, m2, k3]
      cases brk
      · simp [rxStep, accumulated, setUnread, hc, ha]
      · simp [rxStep, accumulated, setUnread, hc, ha, detectBreak, logReason, emit, eventEntry, m3, k4,
          Config.breakDetectSteps]
    rw [hs]
    congr 1
    unfold tickTimers
    rw [rxBreakTick_idle _ (by rw [takeWord_breakCounter]; cases brk <;> simp)]
    have hw := takeWord_withTx count { u.tx with breakTxCounter := u.tx.breakTxCounter - 1 } { u with
          rx := { u.rx with
            unreadLines := 0
            rxAccum := accumulatedTo lc s
            breakCounter := if brk then -1 else 0
            breakDelay := if brk then 1 else u.rx.breakDelay }
          history := u.history ++ (if brk then [eventEntry s (.log .breakDetected)] else []) }
    refine Eq.trans ?_ hw.symm
    have hfr := (takeWord_frame count { u with
          rx := { u.rx with
            unreadLines := 0
            rxAccum := accumulatedTo lc s
            breakCounter := if brk then -1 else 0
            breakDelay := if brk then 1 else u.rx.breakDelay }
          history := u.history ++ (if brk then [eventEntry s (.log .breakDetected)] else []) }).tx
    have hb : u.tx.breakTxCounter ≠ 1 := by rw [m8, k2]; exact go
    generalize takeWord count _ = v at *
    have hvu : v.tx = u.tx := hfr
    rcases breakTxTick_cases s.side.now v with ⟨h0, h⟩ | ⟨-, h⟩ | ⟨h0, -, h⟩ | ⟨h0, -, -, h⟩
    · have hz : ({ u.tx with breakTxCounter := u.tx.breakTxCounter - 1 } : Tx) = v.tx := by
        rw [← hvu, h0]; generalize v.tx = x at h0; cases x; simp at h0; simp [h0]
      rw [h, hz]; rfl
    · rw [h]; simp [withTx, hvu]
    · exact absurd h0 (by rw [hvu]; exact hb)
    · exact absurd h0 (by rw [hvu]; exact hb)

/-- With no queued word to move and the gate open, the word comes from the backend (R73). -/
theorem takeWord_open (count : Nat) (r : State) (h : canReceive r = true) (h2 : r.rx.rbf = true ∨ r.rx.receiveQueue = [])
    (he : r.session.transport.external = true) (ha : r.session.available = true) :
    takeWord count r = if ninebit r.baud.period then intake9 count r else intake8 count r := by
  have h5 : r.session.transport ≠ .none ∧ r.session.transport ≠ .loopback := by
    constructor <;> (intro h; simp [h, Transport.external] at he)
  unfold takeWord
  cases hq : r.rx.receiveQueue with
  | nil => simp [intakeFromTransport, h, h5, ha]
  | cons w rest => simp only [hq] at h2; simp at h2; simp [intakeFromTransport, h, h5, ha, h2]

end Sys2Proof.Machine
end

