-- ==== Sys2Proof/Laws/Encoding.lean ====
section
/-! SUPPORT. The fields of an assembled word (spec/30_encoding.md R36): reading a field gives what was put into it. -/

namespace Sys2Proof

theorem assemble_toNat (op sub : BitVec 4) (b : Byte) (a : Reg) :
    (assemble op sub b a).toNat = op.toNat * 2 ^ 28 + sub.toNat * 2 ^ 24 + b.toNat * 2 ^ 16 + a.toNat := by
  have h1 := op.isLt; have h2 := sub.isLt; have h3 := b.isLt; have h4 := a.isLt
  unfold assemble
  rw [BitVec.toNat_append, BitVec.toNat_append, BitVec.toNat_append]
  rw [← Nat.shiftLeft_add_eq_or_of_lt h2, ← Nat.shiftLeft_add_eq_or_of_lt h3, ← Nat.shiftLeft_add_eq_or_of_lt h4]
  simp only [Nat.shiftLeft_eq]
  omega

theorem opOf_toNat (w : Word) : (opOf w).toNat = w.toNat / 2 ^ 28 := by
  have h := w.isLt
  simp only [opOf, BitVec.extractLsb'_toNat, Nat.shiftRight_eq_div_pow]
  omega

theorem subOf_toNat (w : Word) : (subOf w).toNat = w.toNat / 2 ^ 24 % 16 := by
  simp only [subOf, BitVec.extractLsb'_toNat, Nat.shiftRight_eq_div_pow]

theorem bOf_toNat (w : Word) : (bOf w).toNat = w.toNat / 2 ^ 16 % 256 := by
  simp only [bOf, BitVec.extractLsb'_toNat, Nat.shiftRight_eq_div_pow]

theorem aOf_toNat (w : Word) : (aOf w).toNat = w.toNat % 2 ^ 16 := by
  simp only [aOf, BitVec.extractLsb'_toNat, Nat.shiftRight_eq_div_pow, Nat.pow_zero, Nat.div_one]

theorem aHigh_toNat (a : Reg) : (aHigh a).toNat = a.toNat / 256 := by
  have h := a.isLt
  simp only [aHigh, BitVec.extractLsb'_toNat, Nat.shiftRight_eq_div_pow]
  omega

theorem aLow_toNat (a : Reg) : (aLow a).toNat = a.toNat % 256 := by
  simp only [aLow, BitVec.extractLsb'_toNat, Nat.shiftRight_eq_div_pow, Nat.pow_zero, Nat.div_one]

@[simp] theorem opOf_assemble (op sub : BitVec 4) (b : Byte) (a : Reg) : opOf (assemble op sub b a) = op := by
  have h1 := op.isLt; have h2 := sub.isLt; have h3 := b.isLt; have h4 := a.isLt
  apply BitVec.eq_of_toNat_eq; rw [opOf_toNat, assemble_toNat]; omega

@[simp] theorem subOf_assemble (op sub : BitVec 4) (b : Byte) (a : Reg) : subOf (assemble op sub b a) = sub := by
  have h1 := op.isLt; have h2 := sub.isLt; have h3 := b.isLt; have h4 := a.isLt
  apply BitVec.eq_of_toNat_eq; rw [subOf_toNat, assemble_toNat]; omega

@[simp] theorem bOf_assemble (op sub : BitVec 4) (b : Byte) (a : Reg) : bOf (assemble op sub b a) = b := by
  have h1 := op.isLt; have h2 := sub.isLt; have h3 := b.isLt; have h4 := a.isLt
  apply BitVec.eq_of_toNat_eq; rw [bOf_toNat, assemble_toNat]; omega

@[simp] theorem aOf_assemble (op sub : BitVec 4) (b : Byte) (a : Reg) : aOf (assemble op sub b a) = a := by
  have h1 := op.isLt; have h2 := sub.isLt; have h3 := b.isLt; have h4 := a.isLt
  apply BitVec.eq_of_toNat_eq; rw [aOf_toNat, assemble_toNat]; omega

/-- A word is the assembly of its fields. -/
theorem assemble_fields (w : Word) : assemble (opOf w) (subOf w) (bOf w) (aOf w) = w := by
  have h := w.isLt
  apply BitVec.eq_of_toNat_eq
  rw [assemble_toNat, opOf_toNat, subOf_toNat, bOf_toNat, aOf_toNat]
  omega

end Sys2Proof
end

