-- ==== Sys2Proof/Laws/Flags.lean ====
section
/-! SUPPORT. The bits of the composite word of `SERDATR` and of the status byte. -/

namespace Sys2Proof.Machine

theorem flagMask_getLsbD (b : Bool) (m : Reg) (i : Nat) : (flagMask b m).getLsbD i = (b && m.getLsbD i) := by
  cases b <;> simp [flagMask]

/-- The single bits of the flag masks of R46. -/
theorem serdatrMasks_getLsbD (i : Nat) :
    (0x8000 : Reg).getLsbD i = decide (i = 15) ∧ (0x4000 : Reg).getLsbD i = decide (i = 14) ∧
      (0x2000 : Reg).getLsbD i = decide (i = 13) ∧ (0x1000 : Reg).getLsbD i = decide (i = 12) ∧
      (0x0800 : Reg).getLsbD i = decide (i = 11) ∧ (0x03FF : Reg).getLsbD i = decide (i < 10) := by
  by_cases h : i < 16
  · interval_cases i <;> decide
  · simp only [BitVec.getLsbD_of_ge _ i (by omega : 16 ≤ i)]; simp; omega

/-- Bit `i` of the composite word (R46). -/
theorem serdatrWord_getLsbD (s : State) (i : Nat) : (serdatrWord s).getLsbD i =
    ((flagOVRUN s && decide (i = 15)) || (flagRBF s && decide (i = 14)) || (flagTBE s && decide (i = 13)) ||
      (flagTSRE s && decide (i = 12)) || (flagRXD s && decide (i = 11)) ||
      (s.rx.receiveReg.getLsbD i && decide (i < 10))) := by
  obtain ⟨h1, h2, h3, h4, h5, h6⟩ := serdatrMasks_getLsbD i
  simp only [serdatrWord, BitVec.getLsbD_or, BitVec.getLsbD_and, flagMask_getLsbD, h1, h2, h3, h4, h5, h6]

/-- Bit `j` after a line is put at bit `i` (R88). -/
theorem putLine_getLsbD (dir : Byte) (i : Nat) (hi : i < 8) (a : Bool) (r : Byte) (j : Nat) :
    (putLine dir i a r).getLsbD j = if j = i ∧ dir.getLsbD i = false then !a else r.getLsbD j := by
  by_cases hj : j < 8
  · by_cases hd : dir.getLsbD i = true
    · simp [putLine, hd]
    · simp only [putLine, hd]
      simp only [Bool.false_eq_true, if_false]
      cases a <;> interval_cases i <;> interval_cases j <;> simp [setBit]
  · have hne : j ≠ i := by omega
    simp [BitVec.getLsbD_of_ge _ j (by omega : 8 ≤ j), hne]

end Sys2Proof.Machine
end

