-- ==== Sys2Proof/Laws/PerInstr.lean ====
section
/-! SUPPORT. Families of statements about every instruction as syntax, one lemma per constructor. -/

namespace Sys2Proof.Laws.TableRow

/-- The row of spec/opcode_table.json of an instruction: its match and its mask. -/
def row : Instr → Nat × Nat
  | .wserper _ => (0x10000000, 0xFFFF0000)
  | .wserdat _ => (0x20000000, 0xFFFF0000)
  | .rserdatr => (0x30000000, 0xFFFFFFFF)
  | .rstatus _ _ => (0x40000000, 0xFF00FF00)
  | .wstatus _ _ => (0x50000000, 0xFF00FF00)
  | .setbrk => (0x60000000, 0xFFFFFFFF)
  | .clrbrk => (0x70000000, 0xFFFFFFFF)
  | .ackrbf => (0x80000000, 0xFFFFFFFF)
  | .tick _ => (0x90000000, 0xFFFF0000)
  | .fireTxDone => (0xA0000000, 0xFFFFFFFF)
  | .fireLoopbackRx => (0xA1000000, 0xFFFFFFFF)
  | .openSession => (0xB0000000, 0xFFFFFFFF)
  | .closeSession => (0xC0000000, 0xFFFFFFFF)

/-- The instruction's word matches its row of the opcode table, whatever its operands. -/
def Statement (i : Instr) : Prop := encode i &&& BitVec.ofNat 32 (row i).2 = BitVec.ofNat 32 (row i).1

/-- A mask over the fields of a word. -/
theorem assemble_and (op sub op' sub' : BitVec 4) (b b' : Byte) (a a' : Reg) :
    assemble op sub b a &&& assemble op' sub' b' a' = assemble (op &&& op') (sub &&& sub') (b &&& b') (a &&& a') := by
  apply BitVec.eq_of_getLsbD_eq
  intro i hi
  simp only [assemble, BitVec.getLsbD_and, BitVec.getLsbD_append]
  by_cases h1 : i < 16
  · simp [h1]
  · by_cases h2 : i - 16 < 8
    · simp [h1, h2]
    · by_cases h3 : i - 16 - 8 < 4 <;> simp [h1, h2, h3]

/-- A row's mask and match, field by field, against an instruction's word. -/
theorem of_fields {i : Instr} (op sub op' sub' op2 sub2 : BitVec 4) (b b' b2 : Byte) (a a' a2 : Reg)
    (h1 : encode i = assemble op sub b a) (h2 : BitVec.ofNat 32 (row i).2 = assemble op' sub' b' a')
    (h3 : BitVec.ofNat 32 (row i).1 = assemble op2 sub2 b2 a2)
    (h4 : op &&& op' = op2 ∧ sub &&& sub' = sub2 ∧ b &&& b' = b2 ∧ a &&& a' = a2) : Statement i := by
  obtain ⟨rfl, rfl, rfl, rfl⟩ := h4
  unfold Statement
  rw [h1, h2, h3, assemble_and]

theorem low_byte_and (v : Byte) : v.setWidth 16 &&& 0xFF00 = (0 : Reg) := by revert v; decide

theorem wserper (w : Reg) : Statement (.wserper w) :=
  of_fields 0x1 0 0xF 0xF 0x1 0 0 0xFF 0 w 0 0 rfl (by simp only [row]; decide) (by simp only [row]; decide) (by simp)
theorem wserdat (w : Reg) : Statement (.wserdat w) :=
  of_fields 0x2 0 0xF 0xF 0x2 0 0 0xFF 0 w 0 0 rfl (by simp only [row]; decide) (by simp only [row]; decide) (by simp)
theorem rserdatr : Statement .rserdatr := by unfold Statement; decide
theorem rstatus (dir cur : Byte) : Statement (.rstatus dir cur) :=
  of_fields 0x4 0 0xF 0xF 0x4 0 dir 0 0 (cur.setWidth 16) 0xFF00 0 rfl (by simp only [row]; decide) (by simp only [row]; decide)
    ⟨by decide, by decide, by simp, low_byte_and _⟩
theorem wstatus (dir val : Byte) : Statement (.wstatus dir val) :=
  of_fields 0x5 0 0xF 0xF 0x5 0 dir 0 0 (val.setWidth 16) 0xFF00 0 rfl (by simp only [row]; decide) (by simp only [row]; decide)
    ⟨by decide, by decide, by simp, low_byte_and _⟩
theorem setbrk : Statement .setbrk := by unfold Statement; decide
theorem clrbrk : Statement .clrbrk := by unfold Statement; decide
theorem ackrbf : Statement .ackrbf := by unfold Statement; decide
theorem tick (lc : Nat) : Statement (.tick lc) :=
  of_fields 0x9 0 0xF 0xF 0x9 0 0 0xFF 0 (BitVec.ofNat 16 lc) 0 0 rfl (by simp only [row]; decide) (by simp only [row]; decide) (by simp)
theorem fireTxDone : Statement .fireTxDone := by unfold Statement; decide
theorem fireLoopbackRx : Statement .fireLoopbackRx := by unfold Statement; decide
theorem openSession : Statement .openSession := by unfold Statement; decide
theorem closeSession : Statement .closeSession := by unfold Statement; decide

end Sys2Proof.Laws.TableRow
end

