-- ==== Sys2Proof/Tests/Slice0.lean ====
section
/-! SUPPORT. The model's own tests: encodings written out from spec/30_encoding.md, one-step vectors of
spec/95_test_vectors.md (named by the vector), and for every statement with hypotheses a state that meets them. -/

namespace Sys2Proof.Tests

open Sys2Proof Sys2Proof.Machine

/-! States -/

/-- The state an instruction leaves; every one answers with a next state (R102). -/
def after (i : Instr) (s : State) : State :=
  match exec i s with
  | .next t => t
  | .fault _ => s
  | .refused _ => s

/-- Power-on under the parameters of spec/95_test_vectors.md. -/
def power : State := State.resetWith Config.vectorParams

/-- At cycle `n`, with `g` equal to the generation. -/
def at' (n : Nat) (s : State) : State := { s with side := { s.side with now := n, g := s.session.gen } }

/-- A session of a given kind, with a connected backend. -/
def onKind (k : Transport) (s : State) : State := { s with session := { transport := k, available := true, gen := 1 } }

def exactly (s : State) : State := { s with cfg := { s.cfg with cycleExact := true } }

/-- Period 0x0170 set, session 1, no device, cycle 100. -/
def idle : State := at' 100 (after (.wserper 0x0170) { power with session := { power.session with gen := 1 } })

/-- T1: cycle-exact, the word 0x0141 written at cycle 100. -/
def sent : State := after (.wserdat 0x0141) (exactly idle)

/-- T1 on a real device, at the frame's end. -/
def sentDevice : State := at' 3790 (after (.wserdat 0x0141) (exactly (onKind .realDevice idle)))

/-- S4: a word written into a loopback session. -/
def looped : State := after (.wserdat 0x0141) (onKind .loopback idle)

/-- T14: a break window over the frame of T1. -/
def frozen : State := after .setbrk (at' 1000 sent)

/-- B11: outside cycle-exact mode, 908 cycles into the frame. -/
def counting : State := at' 910 { after (.wserdat 0x0141) idle with
  tx := { (after (.wserdat 0x0141) idle).tx with txAccum := 908 } }

/-- A real device that answers one poll with `(count, false)` and reads with `bytes`, in the mode of `w`. -/
def receiving (w : Reg) (count : Nat) (bytes : List Byte) : State :=
  let s := at' 227 (onKind .realDevice (after (.wserper w) power))
  { s with script := { s.script with
      readAvailables := [.value (count, false)]
      reads := bytes.map (fun b => .value [b]) } }

/-- P3, at the tick with `n` unread lines before it. -/
def unread (n : Nat) : State :=
  let s := receiving 0x0170 1 [0x55]
  { s with rx := { s.rx with receiveReg := 0x0155, rbf := true, unreadLines := n }
           irq := { s.irq with rbfUnacked := true }
           script := { s.script with flushes := [.value ()] } }

/-- The transport's answers lined up. -/
def scripted (answers : Script) (s : State) : State := { s with script := answers }

/-- A stimulus waiting, with the side band the state has. -/
def queued (w : Word) (s : State) : State := placeStimulus { word := w, side := s.side } s

/-- Outside cycle-exact mode, on a kind of transport, with a tick of 227 cycles that just reaches the end of the frame of
3690 cycles. -/
def crossingOn (k : Transport) (answers : Script) : State :=
  { onKind k counting with tx := { counting.tx with txAccum := 3463 }, script := answers }

/-- A 9-bit frame stalled after its first byte. -/
def stalledOn (k : Transport) (answers : Script) : State :=
  { onKind k counting with
    tx := { counting.tx with shiftState := .stalled, emitBuf := [0xA1, 0x41], emitIdx := 1 }
    script := answers }

/-- The second word of P2 on its real device, at period 0, where a receive step comes at every tick of 227 cycles: its
frame of two bytes in the given shift state. -/
def p2Frame (st : ShiftState) (emitIdx : Nat) (answers : Script) : State :=
  { onKind .realDevice power with
    cfg := { SessionCfg.default with crlf := true }
    tx := { power.tx with
      shiftState := st, shiftReg := 0x010A, shiftBits := 10, txBitTime := 1, txFrameCycles := 10, txAccum := 217,
      emitBuf := [0x0D, 0x0A], emitIdx := emitIdx }
    script := answers }

/-- Answers to a poll that finds nothing, then to a write. -/
def nothingThen (room : List (Answer Bool)) (writes : List (Answer Nat)) : Script :=
  { Script.empty with readAvailables := [.value (0, false)], writeAvailables := room, writes := writes }

/-- A poll that fails. -/
def pollFails : Script := { Script.empty with readAvailables := [.failure] }

/-- With the queue, the register's flag and the prefix of a receiver. -/
def holdingRx (queue : List Reg) (rbf : Bool) (p : Option Bool) (s : State) : State :=
  { s with rx := { s.rx with receiveQueue := queue, rbf := rbf, rxPrefix := p } }

/-- A word waiting for the shifter. -/
def waiting (w : Reg) (s : State) : State := { s with tx := { s.tx with holding := w, dataPending := true } }

/-! Well-formedness -/

theorem test_wf_refuses_a_tick_above_its_field : Instr.wf (.tick 65536) = false := by decide
theorem test_wf_accepts_the_greatest_tick : Instr.wf (.tick 65535) = true := by decide

/-! Encodings: op, sub, B, A written out (R38; spec/95_test_vectors.md section 2) -/

theorem test_decode_wserper : decode (0x1#4 ++ 0x0#4 ++ 0x00#8 ++ 0x0170#16) = .ok (.wserper 0x0170) := by decide
theorem test_decode_wserdat : decode (0x2#4 ++ 0x0#4 ++ 0x00#8 ++ 0x0141#16) = .ok (.wserdat 0x0141) := by decide
theorem test_decode_rserdatr : decode (0x3#4 ++ 0x0#4 ++ 0x00#8 ++ 0x0000#16) = .ok .rserdatr := by decide
theorem test_decode_rstatus : decode (0x4#4 ++ 0x0#4 ++ 0xC0#8 ++ 0x00FF#16) = .ok (.rstatus 0xC0 0xFF) := by decide
theorem test_decode_wstatus : decode (0x5#4 ++ 0x0#4 ++ 0xC0#8 ++ 0x003F#16) = .ok (.wstatus 0xC0 0x3F) := by decide
theorem test_decode_setbrk : decode (0x6#4 ++ 0x0#4 ++ 0x00#8 ++ 0x0000#16) = .ok .setbrk := by decide
theorem test_decode_clrbrk : decode (0x7#4 ++ 0x0#4 ++ 0x00#8 ++ 0x0000#16) = .ok .clrbrk := by decide
theorem test_decode_ackrbf : decode (0x8#4 ++ 0x0#4 ++ 0x00#8 ++ 0x0000#16) = .ok .ackrbf := by decide
theorem test_decode_tick : decode (0x9#4 ++ 0x0#4 ++ 0x00#8 ++ 0x00E3#16) = .ok (.tick 227) := by decide
theorem test_decode_fireTxDone : decode (0xA#4 ++ 0x0#4 ++ 0x00#8 ++ 0x0000#16) = .ok .fireTxDone := by decide
theorem test_decode_fireLoopbackRx : decode (0xA#4 ++ 0x1#4 ++ 0x00#8 ++ 0x0000#16) = .ok .fireLoopbackRx := by decide
theorem test_decode_openSession : decode (0xB#4 ++ 0x0#4 ++ 0x00#8 ++ 0x0000#16) = .ok .openSession := by decide
theorem test_decode_closeSession : decode (0xC#4 ++ 0x0#4 ++ 0x00#8 ++ 0x0000#16) = .ok .closeSession := by decide

/-- The reserved words of spec/95_test_vectors.md section 2, by the clause of R40 each falls under. -/
theorem test_decode_reserved :
    decode 0x00000000 = .error (.opcode 0) ∧ decode 0xD0000000 = .error (.opcode 0xD) ∧
    decode 0xE0000000 = .error (.opcode 0xE) ∧ decode 0xF0000000 = .error (.opcode 0xF) ∧
    decode 0xA2000000 = .error (.fireKind 2) ∧ decode 0x20010041 = .error (.nonzeroField 2) ∧
    decode 0x30000001 = .error (.nonzeroField 3) ∧ decode 0x4000FF00 = .error (.nonzeroField 4) ∧
    decode 0x91000000 = .error (.nonzeroField 9) := by decide

/-! The notation of R42 and R43 -/

theorem test_R42_line : (asmLine "[227] TICK 0xE3 ; one line".toList).map (fun l => l.map (fun s => (s.word, s.side.now))) =
    some [(0x900000E3, 227)] := by decide
theorem test_R43_putch : (asmLine "[3] PUTCH 0x41".toList).map (fun l => l.map (fun s => s.word)) =
    some [0x20000141] := by decide

/-- The model's choices where R42 is silent (log 17): commas between the fields inside the braces of `OPEN`, and no stimuli
for a blank line or a line that holds only a comment. -/
theorem test_log17_choices :
    (asmCfgFields "crlf=true,stopBits=2".toList).map (fun c => (c.crlf, decide (c.stopBits = .two), c.cycleExact)) =
      some (true, true, false) ∧ (asmCfgFields []).map (fun c => decide (c = SessionCfg.default)) = some true ∧
    (asmCfgFields "crlf=true;direct=true".toList).isNone = true ∧
    (asmLine []).isNone = true ∧ (asmLine " ; a comment".toList).isNone = true := by decide

/-! One-step vectors -/

theorem test_B1_fallback : (after (.wserper 0x0000) power).baud =
    { period := 0, periodSet := true, appliedBaud := 110, txPeriodCycles := 10, rxPeriodCycles := 227 } := by decide
theorem test_B9k_ninebit : (after (.wserper 0x8170) power).baud =
    { period := 0x8170, periodSet := true, appliedBaud := 19200, txPeriodCycles := 4059, rxPeriodCycles := 1014 } := by
  decide
theorem test_T1_load : sent.tx.txDoneAt = 3790 ∧ sent.tx.emitBuf = [0x41] ∧ sent.tx.shiftBits = 10 ∧
    sent.tx.dataPending = false ∧ sent.history.drop 2 =
      [{ now := 100, record := .event .irqTBE }, { now := 100, record := .event (.schedule .txDone 3790 1) }] := by
  decide
theorem test_T7_ninebit_frame_is_not_translated :
    (after (.wserdat 0x010A) { after (.wserper 0x8000) (onKind .realDevice power) with
      cfg := { SessionCfg.default with crlf := true } }).tx.emitBuf = [0xA1, 0x0A] := by decide
theorem test_RX10_read_after_reset : (after .rserdatr power).returned = [.serdatr 0x3800] := by decide
theorem test_P3_sticky_read :
    let s := { power with
      rx := { power.rx with receiveReg := 0x0155, rbf := true, overrun := true }
      irq := { rbfUnacked := true, stickyRbf := true } }
    (after .rserdatr s).returned = [.serdatr 0xF955] ∧ (after .rserdatr s).irq = { rbfUnacked := true, stickyRbf := false } ∧
      (after .rserdatr s).history = [eventEntry s .irqRBF] := by decide
theorem test_L2_status_of_idle_loopback :
    (after (.rstatus 0xC0 0xFF) { onKind .loopback power with
      cfg := { SessionCfg.default with riOnSel := true } }).returned = [.status 0xDB] := by decide
theorem test_L3_status_of_device :
    (after (.rstatus 0x00 0x03) { onKind .realDevice power with
      cfg := { SessionCfg.default with riOnSel := true }
      script := { Script.empty with
        getLineStatuses := [.value { dsr := true, cd := false, cts := true, ri := false }] } }).returned =
      [.status 0x27] := by decide
theorem test_L5_lines_forwarded :
    (after (.wstatus 0xC0 0x3F) { onKind .realDevice power with
      script := { Script.empty with setLineStatuses := [.value ()] } }).history =
      [{ now := 0, record := .call (.setLineStatus true true (.value ())) },
       { now := 0, record := .event (.setLines true true) }] := by decide
theorem test_L6_no_output_bit : (after (.wstatus 0x00 0x00) (onKind .realDevice power)).draws = 0 := by decide
theorem test_T14_frozen : frozen.tx.breakTxCounter = 3 ∧ frozen.tx.txFrozenRem = 2790 := by decide
theorem test_T15_second_setbrk : (after .setbrk frozen).history = frozen.history := by decide
theorem test_P4_clrbrk_keeps_the_window :
    (after .clrbrk frozen).tx.breakTxCounter = 3 ∧ (after .clrbrk frozen).tx.txBreakAsserted = false := by decide
theorem test_RX12_ackrbf : (after .ackrbf { power with rx := { power.rx with overrun := true } }).rx.overrun = false := by
  decide
theorem test_B11_completes : (after (.tick 227) { counting with
    tx := { counting.tx with txAccum := 1817, txFrameCycles := 1850 } }).tx.txAccum = 0 := by decide
theorem test_P5_delivers_the_ninth_bit :
    (after (.tick 227) (receiving 0x8000 4 [0xA1, 0x33])).rx.receiveReg = 0x0333 := by decide
theorem test_T2_frame_end : (after .fireTxDone (at' 3790 sent)).tx.shiftState = .empty ∧
    (after .fireTxDone (at' 3790 sent)).tx.lastSent = some 0x41 := by decide
theorem test_T3_early_firing : (after .fireTxDone (at' 3789 sent)).tx.shiftState = .draining := by decide
theorem test_S4_echo : (after .fireLoopbackRx (at' 3798 looped)).rx.receiveReg = 0x0141 := by decide
theorem test_S4_not_before : (after .fireLoopbackRx (at' 3797 looped)).rx.rbf = false := by decide
theorem test_K3_open_none : (after .openSession power).session = { transport := .none, available := false, gen := 1 } ∧
    (after .openSession power).returned = [.openOk] := by decide
theorem test_K4_open_failed :
    (after .openSession { power with
      side := { power.side with name := ['x'] }
      script := { Script.empty with opens := [.failed] } }).history =
      [{ now := 0, record := .call (.opened .realDevice .failed) }, { now := 0, record := .event (.log .openFailed) }] := by
  decide
theorem test_K5_close : (after .closeSession sent).session.gen = 2 ∧ (after .closeSession sent).tx = Tx.reset := by
  decide

/-! Hypotheses that are met: `witness_<Name>` for the statement `<Name>` -/

theorem witness_DecodeOfEncodeIsTheInstruction : Instr.wf (.tick 0) = true ∧ Instr.wf (.tick 65535) = true ∧
    Instr.wf (.rstatus 0xFF 0xFF) = true ∧ Instr.wf .closeSession = true := by decide
theorem witness_AcceptedWordIsTheEncoding : decode 0x9000FFFF = .ok (.tick 65535) ∧
    decode 0x50FF00FF = .ok (.wstatus 0xFF 0xFF) := by decide
/-- A reserved word by each clause, and accepted words beside them. -/
theorem witness_ReservedWordsAreExactlyTheRefused :
    (∀ w ∈ ([0x00000000, 0x0FFFFFFF, 0xD0000000, 0xFFFFFFFF, 0xA2000000, 0xAF000000, 0x1F000000, 0xB1000000, 0x10010000,
        0x90FF0000, 0xA0010000, 0x40000100, 0x5000FF00, 0x30000001, 0x6000FFFF, 0x80000001, 0xA1000001, 0xC0000001] : List Word),
      ∃ r, step (queued w power) = .refused (.reservedWord r)) ∧
    ∀ w ∈ ([0x1000FFFF, 0x40FF00FF, 0x60000000, 0x80000000, 0x9000FFFF, 0xA1000000, 0xC0000000] : List Word),
      ∃ i, decode w = .ok i := by
  refine ⟨fun w h => ?_, fun w h => ?_⟩
  all_goals
    simp only [List.mem_cons, List.not_mem_nil, or_false] at h
    rcases h with h
    repeat' rcases h with rfl | h
    all_goals exact ⟨_, rfl⟩
theorem witness_StepRunsTheDecodedStimulus : (queued 0x70000000 sent).pending = [{ word := 0x70000000, side := sent.side }] ∧
    decode 0x70000000 = .ok .clrbrk := ⟨rfl, by decide⟩
theorem witness_PlacedWordIsRunNext : decodeTableWord 32 0x70000000 = some .clrbrk ∧
    decodeTableWord 32 0x9000FFFF = some (.tick 65535) := by decide

/-- The invariant holds of a frame in flight on a device, and of the frozen frame. -/
theorem inv_sentDevice : Inv sentDevice :=
  ⟨by constructor <;> decide, by constructor <;> decide, by constructor <;> decide⟩
theorem inv_frozen : Inv frozen :=
  ⟨by constructor <;> decide, by constructor <;> decide, by constructor <;> decide⟩
theorem inv_queued : Inv (queued 0xA0000000 sentDevice) :=
  ⟨by constructor <;> decide, by constructor <;> decide, by constructor <;> decide⟩
theorem witness_StepKeepsTheStateInvariant :
    Inv (queued 0xA0000000 sentDevice) ∧ ∃ t, step (queued 0xA0000000 sentDevice) = .next t := ⟨inv_queued, _, rfl⟩
theorem witness_StepKeepsTheDeadlineScheduled : DeadlineScheduled (queued 0x100000B8 (at' 1845 sent)) ∧
    sent.cfg.cycleExact = true ∧ sent.tx.shiftState = .draining ∧ sent.tx.breakTxCounter = 0 ∧
    ∃ t, step (queued 0x100000B8 (at' 1845 sent)) = .next t :=
  ⟨fun _ _ _ => by decide, by decide, by decide, by decide, _, rfl⟩
theorem witness_StepKeepsTheEchoScheduled : EchoScheduled (queued 0xA1000000 (at' 3798 looped)) ∧
    looped.tx.loopQueue = [{ word := 0x0141, due := 3798 }] ∧
    ∃ t, step (queued 0xA1000000 (at' 3798 looped)) = .next t := by
  refine ⟨fun e rest h => ⟨3798, ?_, by decide⟩, by decide, _, rfl⟩
  have hq : (queued 0xA1000000 (at' 3798 looped)).tx.loopQueue = [{ word := 0x0141, due := 3798 }] := by decide
  rw [hq] at h
  cases h
  decide
theorem witness_HistoryIsAppendOnly : exec (.wserdat 0x0141) (exactly idle) = .next sent := rfl
/-- Each kind of instruction the statement tells apart. -/
theorem witness_OnlyOpenAndCloseChangeTheSession : exec .openSession sent = .next (after .openSession sent) ∧
    exec .closeSession sent = .next (after .closeSession sent) ∧ exec .setbrk sent = .next (after .setbrk sent) :=
  ⟨rfl, rfl, rfl⟩
/-- A backend that is gone, one that fails in this stimulus (K2), and one that fails in a tick that reports an overrun. -/
theorem witness_OnlyOpenMakesTheBackendAvailable : sent.session.available = false ∧
    (let s1 := { onKind .realDevice idle with script := { Script.empty with readAvailables := [.failure] } }
     let s2 := { unread 199 with
       tx := (stalledOn .realDevice .empty).tx
       script := { (unread 199).script with writeAvailables := [.failure] } }
     (exec (.tick 227) s1 = .next (after (.tick 227) s1) ∧ exec (.tick 227) s2 = .next (after (.tick 227) s2)) ∧
     ∀ s ∈ [s1, s2], s.session.available = true ∧ (after (.tick 227) s).session.available = false) :=
  ⟨by decide, ⟨rfl, rfl⟩, by decide⟩
/-- A loopback session, and a frame stalled on a backend that is gone. -/
theorem witness_OracleIsCalledOnlyOnAnAvailableBackend :
    (exec (.tick 227) looped = .next (after (.tick 227) looped) ∧ looped.session.transport.external = false) ∧
    (let s := { stalledOn .realDevice .empty with session := { transport := .realDevice, available := false, gen := 1 } }
     exec (.tick 227) s = .next (after (.tick 227) s) ∧ s.session.available = false ∧ s.tx.shiftState = .stalled) :=
  ⟨⟨rfl, by decide⟩, rfl, by decide, by decide⟩
theorem witness_OnlyWserperChangesThePeriod : exec (.tick 227) sent = .next (after (.tick 227) sent) ∧
    exec .closeSession sent = .next (after .closeSession sent) := ⟨rfl, rfl⟩
/-- T4: the waiting word is taken at the frame's end. -/
theorem witness_PendingClearsOnlyByALoad :
    let s := at' 3790 (after (.wserdat 0x0142) sent)
    exec .fireTxDone s = .next (after .fireTxDone s) ∧ s.tx.dataPending = true ∧
      (after .fireTxDone s).tx.dataPending = false := ⟨rfl, by decide, by decide⟩
/-- Set by a tick whose flush is answered, and by one whose flush fails; cleared by `ACKRBF`. -/
theorem witness_OverrunIsSetOnlyByATickOutsideCycleExact :
    (∀ s ∈ [unread 199, { unread 199 with script := { (unread 199).script with flushes := [.failure] } }],
      s.rx.overrun = false ∧ (after (.tick 227) s).rx.overrun = true) ∧
    (after .ackrbf (after (.tick 227) (unread 199))).rx.overrun = false := by decide
/-- m = 368 stops at 9600, and m = 12 passes every entry. -/
theorem witness_SnapSelectsTheFirstEntryNotPassed :
    Config.defaultBaudTable =
      [0, 110, 300, 600, 1200, 2400, 4800] ++ 9600 :: [14400, 19200, 31400, 38400, 57600, 115200, 128000, 256000] ∧
    (∀ u ∈ ([0, 110, 300, 600, 1200, 2400, 4800] : List Nat), max (3546895 / (368 + 1)) 1 > u * 100 / 97) ∧
    ¬ max (3546895 / (368 + 1)) 1 > 9600 * 100 / 97 ∧
    ∀ u ∈ Config.defaultBaudTable, max (3546895 / (12 + 1)) 1 > u * 100 / 97 := by decide
theorem witness_PeriodZeroFallsBackToTheLowestRate : Config.vectorParams.legal = true ∧
    ∀ u ∈ Config.vectorParams.baudTable, max (3546895 / (0 + 1)) 1 > u * 100 / 97 := by decide
theorem witness_Period368ResolvesTo9600 : Config.vectorParams.legal = true := by decide
theorem witness_WserperOfTheSamePeriodIsNoOp : idle.baud.periodSet = true ∧ idle.baud.period = 0x0170 := by decide
theorem witness_WserperOnAnUndrainedShifterSetsThePeriodGroup :
    ¬ (power.baud.periodSet = true ∧ power.baud.period = 0) ∧ power.tx.shiftState ≠ .draining := by decide
/-- B15, B10, a frozen frame and B11, one for each case. -/
theorem witness_WserperWhileDrainingRescales :
    (∀ x ∈ [(sent, (0x8170 : Reg)), (sent, 0x00B8), (frozen, 0x00B8), (counting, 0x00B8)],
      ¬ (x.1.baud.periodSet = true ∧ x.1.baud.period = x.2) ∧ x.1.tx.shiftState = .draining) ∧
    0x8170 % 2 ^ 15 + 1 = sent.tx.txBitTime ∧
    (0x00B8 + 1 ≠ sent.tx.txBitTime ∧ sent.cfg.cycleExact = true ∧ sent.tx.breakTxCounter = 0) ∧
    (0x00B8 + 1 ≠ frozen.tx.txBitTime ∧ frozen.cfg.cycleExact = true ∧ 0 < frozen.tx.breakTxCounter) ∧
    (0x00B8 + 1 ≠ counting.tx.txBitTime ∧ counting.cfg.cycleExact = false) := by decide
/-- B10, a frozen frame and B11, one for each clause. -/
theorem witness_RescaleNeverShortensTheRemainder :
    (∀ s ∈ [at' 1845 sent, frozen, counting], s.tx.shiftState = .draining) ∧
    (ShifterInv (at' 1845 sent) ∧ exec (.wserper 0x00B8) (at' 1845 sent) = .next (after (.wserper 0x00B8) (at' 1845 sent)) ∧
      sent.cfg.cycleExact = true ∧ sent.tx.breakTxCounter = 0) ∧
    (ShifterInv frozen ∧ exec (.wserper 0x00B8) frozen = .next (after (.wserper 0x00B8) frozen) ∧
      frozen.cfg.cycleExact = true ∧ 0 < frozen.tx.breakTxCounter) ∧
    (ShifterInv counting ∧ exec (.wserper 0x00B8) counting = .next (after (.wserper 0x00B8) counting) ∧
      counting.cfg.cycleExact = false) :=
  ⟨by decide, ⟨by constructor <;> decide, rfl, by decide, by decide⟩,
    ⟨inv_frozen.shifter, rfl, by decide, by decide⟩, by constructor <;> decide, rfl, by decide⟩
theorem witness_WserdatIntoABusyShifterIsHeld : sent.tx.shiftState ≠ .empty := by decide
theorem witness_WserdatIntoAnEmptyShifterLoads : idle.tx.shiftState = .empty := by decide
/-- One cycle early, for each kind of firing. -/
theorem witness_InvalidFiringIsNoOp :
    (let s := at' 3789 sent
     ¬ (s.side.g = s.session.gen ∧ s.cfg.cycleExact = true ∧ s.tx.shiftState = .draining ∧ s.tx.breakTxCounter = 0 ∧
       s.tx.txDoneAt ≤ s.side.now)) ∧
    (let s := at' 3797 looped
     ¬ (s.side.g = s.session.gen ∧ s.session.transport = .loopback ∧
       ∃ e rest, s.tx.loopQueue = e :: rest ∧ e.due ≤ s.side.now)) := by
  refine ⟨by decide, ?_⟩
  rintro s ⟨-, -, e, rest, h, h2⟩
  have hq : (at' 3797 looped).tx.loopQueue = [{ word := 0x0141, due := 3798 }] := by decide
  rw [show s.tx.loopQueue = _ from hq] at h
  cases h
  exact absurd h2 (by decide)
/-- A firing; a crossing on Loopback, also at a tick with a receive step; and a stalled frame whose backend fails in the
tick's poll. -/
theorem witness_TxDoneWithoutBackendEndsTheFrame :
    let stepping := { p2Frame .draining 0 .empty with session := { transport := .loopback, available := true, gen := 1 } }
    (∃ r, HandsOver .fireTxDone (at' 3790 sent) r ∧ r.session.transport = .none) ∧
    (∀ s ∈ [crossingOn .loopback .empty, stepping],
      ∃ r, HandsOver (.tick 227) s r ∧ r.session.transport = .loopback) ∧
    (∀ s ∈ [stalledOn .realDevice pollFails, p2Frame .stalled 0 pollFails],
      ∃ r, HandsOver (.tick 227) s r ∧ r.session.available = false) ∧
    (∀ s ∈ [sent, crossingOn .loopback .empty, stepping, stalledOn .realDevice pollFails, p2Frame .stalled 0 pollFails],
      s.tx.dataPending = false) ∧ Crosses 227 stepping ∧ Crosses 227 (p2Frame .stalled 0 pollFails) := by
  refine ⟨⟨_, .firing (by decide) (by decide) (by decide) (by decide) (by decide), by decide⟩, fun s hs => ?_,
    fun s hs => ?_, by decide⟩
  all_goals simp only [List.mem_cons, List.not_mem_nil, or_false] at hs
  · rcases hs with rfl | rfl <;>
      exact ⟨_, .crossing (.tick (.unasked (.inl (by decide))) (by decide) (by decide) (by decide)) (by decide) (by decide)
        (by decide) (by decide), by decide⟩
  · rcases hs with rfl | rfl <;>
      exact ⟨_, .retry (.tick (.failed [] (by decide) (by decide) rfl) (by decide) (by decide) (by decide)) (by decide)
        (by decide), by decide⟩
/-- T10 (a firing), a crossing, and a stalled frame (T11), the last also while a break window runs; a write of 0 of the 1
byte left is the last count that stalls. Then the ticks of P2 that stall its second frame and that retry it, each with a
receive step; and a crossing with the register full and bytes waiting behind the shut gate, receive step or not. -/
theorem witness_TxDoneUnderBackPressureStalls :
    let full := nothingThen [.value false] []
    let zero := nothingThen [.value true] [.value 0]
    let one := nothingThen [.value true] [.value 1]
    let inWindow (s : State) : State := { s with tx := { s.tx with breakTxCounter := 2 } }
    let behind := holdingRx [0x0141] true none (p2Frame .draining 0 { full with readAvailables := [.value (3, false)] })
    (∀ a ∈ [full, zero],
      (∃ r, HandsOver .fireTxDone (scripted a sentDevice) r ∧ r.session.transport.external = true ∧
        r.session.available = true) ∧
      (∃ r, HandsOver (.tick 227) (crossingOn .midi a) r ∧ r.session.transport.external = true ∧
        r.session.available = true) ∧
      (∃ r, HandsOver (.tick 227) (stalledOn .tcpSocket a) r ∧ r.session.transport.external = true ∧
        r.session.available = true) ∧
      ∃ r, HandsOver (.tick 227) (inWindow (stalledOn .tcpSocket a)) r ∧ r.session.transport.external = true ∧
        r.session.available = true) ∧
    (∃ r, HandsOver (.tick 227) (p2Frame .draining 0 full) r ∧ r.session.transport.external = true ∧
      r.session.available = true) ∧
    (∃ r, HandsOver (.tick 227) (p2Frame .stalled 0 one) r ∧ r.session.transport.external = true ∧
      r.session.available = true) ∧
    (∃ r, HandsOver (.tick 227) behind r ∧ r.session.transport.external = true ∧ r.session.available = true) ∧
    full.writeAvailables = .value false :: [] ∧ zero.writeAvailables = .value true :: [] ∧
    zero.writes = .value 0 :: [] ∧ one.writes = .value 1 :: [] ∧
    (∀ s ∈ [sentDevice, crossingOn .midi zero, stalledOn .tcpSocket zero],
      0 < (s.tx.emitBuf.drop s.tx.emitIdx).length) ∧
    1 < ((p2Frame .stalled 0 one).tx.emitBuf.drop (p2Frame .stalled 0 one).tx.emitIdx).length ∧
    Crosses 227 (p2Frame .draining 0 full) ∧ Crosses 227 behind ∧ ¬ GateOpen behind := by
  refine ⟨fun a ha => ?_,
    ⟨_, .crossing (.tick (.answered 0 false [] (by decide) (by decide) rfl) (by decide) (by decide) (by decide))
      (by decide) (by decide) (by decide) (by decide), by decide, by decide⟩,
    ⟨_, .retry (.tick (.answered 0 false [] (by decide) (by decide) rfl) (by decide) (by decide) (by decide))
      (by decide) (by decide), by decide, by decide⟩,
    ⟨_, .crossing (.tick (.answered 3 false [] (by decide) (by decide) rfl) (by decide) (by decide) (by decide))
      (by decide) (by decide) (by decide) (by decide), by decide, by decide⟩, by decide⟩
  simp only [List.mem_cons, List.not_mem_nil, or_false] at ha
  rcases ha with rfl | rfl <;> exact
    ⟨⟨_, .firing (by decide) (by decide) (by decide) (by decide) (by decide), by decide, by decide⟩,
     ⟨_, .crossing (.tick (.answered 0 false [] (by decide) (by decide) rfl) (by decide) (by decide) (by decide))
      (by decide) (by decide) (by decide) (by decide), by decide, by decide⟩,
     ⟨_, .retry (.tick (.answered 0 false [] (by decide) (by decide) rfl) (by decide) (by decide) (by decide))
      (by decide) (by decide), by decide, by decide⟩,
     ⟨_, .retry (.tick (.answered 0 false [] (by decide) (by decide) rfl) (by decide) (by decide) (by decide))
      (by decide) (by decide), by decide, by decide⟩⟩
/-- A write of 1 of the 1 byte left, the least that ends the frame, T12, and a failing write: at a firing, at a crossing
(T13, with a word waiting), on a stalled frame, and at the last tick of P2, with a receive step. -/
theorem witness_TxDoneOnABackendWritesTheFrame :
    let all := nothingThen [.value true] [.value 1]
    let gone := nothingThen [.failure] []
    let broken := nothingThen [.value true] [.failure]
    (∀ a ∈ [all, gone, broken],
      (∃ r, HandsOver .fireTxDone (scripted a sentDevice) r ∧ r.session.transport.external = true ∧
        r.session.available = true) ∧
      (∃ r, HandsOver (.tick 227) (waiting 0x0142 (crossingOn .midi a)) r ∧ r.session.transport.external = true ∧
        r.session.available = true) ∧
      (∃ r, HandsOver (.tick 227) (stalledOn .tcpSocket a) r ∧ r.session.transport.external = true ∧
        r.session.available = true) ∧
      ∃ r, HandsOver (.tick 227) (p2Frame .stalled 1 a) r ∧ r.session.transport.external = true ∧
        r.session.available = true) ∧
    (∀ s ∈ [sentDevice, crossingOn .midi all, stalledOn .tcpSocket all, p2Frame .stalled 1 all],
      s.tx.emitIdx ≤ s.tx.emitBuf.length ∧ (s.tx.emitBuf.drop s.tx.emitIdx).length ≤ 1) ∧
    (all.writeAvailables = .value true :: [] ∧ all.writes = .value 1 :: []) ∧ gone.writeAvailables = .failure :: [] ∧
    broken.writeAvailables = .value true :: [] ∧ broken.writes = .failure :: [] ∧ Crosses 227 (p2Frame .stalled 1 all) := by
  refine ⟨?_, by decide⟩
  intro a ha
  simp only [List.mem_cons, List.not_mem_nil, or_false] at ha
  rcases ha with rfl | rfl | rfl <;> exact
    ⟨⟨_, .firing (by decide) (by decide) (by decide) (by decide) (by decide), by decide, by decide⟩,
     ⟨_, .crossing (.tick (.answered 0 false [] (by decide) (by decide) rfl) (by decide) (by decide) (by decide))
      (by decide) (by decide) (by decide) (by decide), by decide, by decide⟩,
     ⟨_, .retry (.tick (.answered 0 false [] (by decide) (by decide) rfl) (by decide) (by decide) (by decide))
      (by decide) (by decide), by decide, by decide⟩,
     ⟨_, .retry (.tick (.answered 0 false [] (by decide) (by decide) rfl) (by decide) (by decide) (by decide))
      (by decide) (by decide), by decide, by decide⟩⟩
/-- T4 (a firing), a crossing on Loopback, and a stalled frame whose backend fails in the tick's poll, with a word
waiting. -/
theorem witness_FrameEndPullsTheWaitingWord :
    let s1 := at' 3790 (after (.wserdat 0x0142) sent)
    let s2 := waiting 0x0142 (crossingOn .loopback .empty)
    let s3 := waiting 0x0142 (stalledOn .realDevice pollFails)
    (∃ r, HandsOver .fireTxDone s1 r ∧ r.session.transport = .none) ∧
    (∃ r, HandsOver (.tick 227) s2 r ∧ r.session.transport = .loopback) ∧
    (∃ r, HandsOver (.tick 227) s3 r ∧ r.session.available = false) ∧ ∀ s ∈ [s1, s2, s3], s.tx.dataPending = true :=
  ⟨⟨_, .firing (by decide) (by decide) (by decide) (by decide) (by decide), by decide⟩,
   ⟨_, .crossing (.tick (.unasked (.inl (by decide))) (by decide) (by decide) (by decide)) (by decide) (by decide)
    (by decide) (by decide), by decide⟩,
   ⟨_, .retry (.tick (.failed [] (by decide) (by decide) rfl) (by decide) (by decide) (by decide)) (by decide)
    (by decide), by decide⟩,
   by decide⟩
/-- T15, T16 and the first assertion. -/
theorem witness_SetbrkStartsAtMostOneWindow : frozen.tx.txBreakAsserted = true ∧
    ((after .clrbrk frozen).tx.txBreakAsserted = false ∧ 0 < (after .clrbrk frozen).tx.breakTxCounter) ∧
    (sent.tx.txBreakAsserted = false ∧ sent.tx.breakTxCounter = 0) := by decide
theorem witness_BreakWindowEndResumesTheFrame :
    let s := after (.tick 227) (after (.tick 227) frozen)
    s.cfg.cycleExact = true ∧ s.tx.shiftState = .draining ∧ s.tx.breakTxCounter = 1 := by decide
theorem witness_LoopbackFiringDeliversOneEcho :
    let s := at' 3798 looped
    s.side.g = s.session.gen ∧ s.session.transport = .loopback ∧ s.tx.loopQueue = { word := 0x0141, due := 3798 } :: [] ∧
      3798 ≤ s.side.now := by decide
theorem witness_LoopbackRoundTripTakesPeriodPlusPropagation :
    let s := onKind .loopback idle
    Inv s ∧ s.session.transport = .loopback ∧ s.tx.shiftState = .empty ∧ s.tx.loopQueue = [] ∧ s.rx.rbf = false ∧
      exec (.wserdat 0x0141) s = .next looped :=
  ⟨⟨by constructor <;> decide, by constructor <;> decide, by constructor <;> decide⟩,
    by decide, by decide, by decide, by decide, rfl⟩
theorem witness_TickOnAnIdleClosedSession : idle.session.transport = .none ∧ idle.tx.shiftState = .empty ∧
    idle.tx.breakTxCounter = 0 ∧ idle.rx.breakCounter = 0 ∧ idle.rx.receiveQueue = [] := by decide
/-- B11 in a break window; and, outside one, at the last cycle count that leaves the frame and the first that ends it,
with no device, on Loopback with a word waiting, and on a backend that is gone. -/
theorem witness_TickDrainsTheFrameByItsCycles :
    let gone := { counting with session := { transport := .realDevice, available := false, gen := 1 } }
    (∀ s ∈ [after .setbrk counting, counting, waiting 0x0142 (onKind .loopback counting), gone],
      s.cfg.cycleExact = false ∧ s.tx.shiftState = .draining) ∧
    0 < (after .setbrk counting).tx.breakTxCounter ∧
    (∀ s ∈ [counting, waiting 0x0142 (onKind .loopback counting), gone], s.tx.breakTxCounter = 0 ∧
      s.tx.txAccum + 2781 < s.tx.txFrameCycles ∧ s.tx.txFrameCycles ≤ s.tx.txAccum + 2782 ∧
      (s.session.transport = .none ∨ s.session.transport = .loopback ∨ s.session.available = false)) := by decide
/-- A queued word on a backend, on Loopback (a queued echo) and with no device; a tick of these with nothing queued; then
on a backend, with an empty register and with a full one in safe-receive mode (also at a poll that reports a break): no
byte, a byte that is 0x0A with and without `crlf`, an empty read, a failing read. -/
theorem witness_TickReceivesOneByte :
    let s0 := receiving 0x0000 1 [0x0A]
    let s1 := { s0 with cfg := { s0.cfg with crlf := true } }
    let full := { unread 5 with cfg := { SessionCfg.default with safeReceive := true } }
    let broken := { s0 with script := { s0.script with readAvailables := [.value (1, true)] } }
    let buffered := holdingRx [0x0141] false none (receiving 0x8000 1 [0xA1])
    let echo := holdingRx [0x0141] false none (onKind .loopback power)
    (∀ s ∈ [s0, s1, buffered], ∃ r, Receives 227 1 s r) ∧ (∃ r, Receives 995 1 full r) ∧ (∃ r, Receives 227 1 broken r) ∧
    (∃ r, Receives 227 0 (receiving 0x0000 0 []) r ∧ r.session.transport.external = true ∧ r.session.available = true) ∧
    (∀ s ∈ [echo, holdingRx [0x0141] false none power, onKind .loopback power, power],
      ∃ r, Receives 227 0 s r ∧ (r.session.transport.external = false ∨ r.session.available = false)) ∧
    (∀ s ∈ [buffered, echo, holdingRx [0x0141] false none power],
      s.rx.rbf = false ∧ s.rx.receiveQueue = 0x0141 :: []) ∧
    (∀ s ∈ [s0, s1, full, broken, receiving 0x0000 0 [], onKind .loopback power, power],
      (s.rx.rbf = true ∨ s.rx.receiveQueue = []) ∧ s.baud.period.getLsbD 15 = false) ∧
    s0.cfg.crlf = false ∧ s1.cfg.crlf = true ∧ full.rx.rbf = true ∧ s0.script.reads = .value (0x0A :: []) :: [] ∧
    (∀ answer ∈ [(.value [] : Answer (List Byte)), .failure],
      let s := { s0 with script := { s0.script with reads := [answer] } }
      (∃ r, Receives 227 1 s r) ∧ s.script.reads = answer :: []) := by
  refine ⟨fun s hs => ?_,
    ⟨_, .tick (.answered 1 false [] (by decide) (by decide) rfl) (.idle (by decide)) (by decide) (by decide) (by decide)
      (by decide)⟩,
    ⟨_, .tick (.answered 1 true [] (by decide) (by decide) rfl) (.idle (by decide)) (by decide) (by decide) (by decide)
      (by decide)⟩,
    ⟨_, .tick (.answered 0 false [] (by decide) (by decide) rfl) (.idle (by decide)) (by decide) (by decide) (by decide)
      (by decide), by decide, by decide⟩,
    fun s hs => ?_, by decide, by decide, by decide, by decide, by decide, by decide, fun a ha => ?_⟩
  · simp only [List.mem_cons, List.not_mem_nil, or_false] at hs
    rcases hs with rfl | rfl | rfl <;>
      exact ⟨_, .tick (.answered 1 false [] (by decide) (by decide) rfl) (.idle (by decide)) (by decide) (by decide)
        (by decide) (by decide)⟩
  · simp only [List.mem_cons, List.not_mem_nil, or_false] at hs
    rcases hs with rfl | rfl | rfl | rfl <;>
      exact ⟨_, .tick (.unasked (.inl (by decide))) (.idle (by decide)) (by decide) (by decide) (by decide) (by decide),
        .inl (by decide)⟩
  · simp only [List.mem_cons, List.not_mem_nil, or_false] at ha
    rcases ha with rfl | rfl <;>
      exact ⟨⟨_, .tick (.answered 1 false [] (by decide) (by decide) rfl) (.idle (by decide)) (by decide) (by decide)
        (by decide) (by decide)⟩, rfl⟩
/-- A receive step while a word drains by its deadline, while one drains by the tick's cycles, in a break window (on
Loopback, where the poll reports it), and while a frame is stalled on a backend with no room. -/
theorem witness_receive_step_beside_a_frame :
    let draining := { sentDevice with script := { Script.empty with readAvailables := [.value (1, false)] } }
    let slow := { onKind .realDevice counting with script := { Script.empty with readAvailables := [.value (1, false)] } }
    let window := after .setbrk (onKind .loopback power)
    let stuck := p2Frame .stalled 0 { Script.empty with
      readAvailables := [.value (1, false)], writeAvailables := [.value false] }
    (∃ r, Receives 995 1 draining r) ∧ (∃ r, Receives 995 1 slow r) ∧ (∃ r, Receives 227 0 window r) ∧
    (∃ r, Receives 227 1 stuck r) ∧ window.tx.breakTxCounter = 3 :=
  ⟨⟨_, .tick (.answered 1 false [] (by decide) (by decide) rfl) (.timed (by decide) (.inl (by decide))) (by decide)
      (by decide) (by decide) (by decide)⟩,
   ⟨_, .tick (.answered 1 false [] (by decide) (by decide) rfl)
      (.counts (by decide) (by decide) (by decide) (by decide)) (by decide) (by decide) (by decide) (by decide)⟩,
   ⟨_, .tick (.unasked (.inl (by decide))) (.idle (by decide)) (by decide) (by decide) (by decide) (by decide)⟩,
   ⟨_, .tick (.answered 1 false [] (by decide) (by decide) rfl) (.full [] (by decide) (by decide) (by decide) rfl)
      (by decide) (by decide) (by decide) (by decide)⟩, by decide⟩
/-- No byte; a sync byte and the next value above it, which is none; a sync byte alone (RX5); an empty and a failing read,
at the prefix, at the data byte and behind a waiting prefix; and a data byte behind one. -/
theorem witness_TickReceivesANineBitFrame :
    let at9 (p : Option Bool) (count : Nat) (reads : List (Answer (List Byte))) : State :=
      let s := holdingRx [] false p (receiving 0x8000 count [])
      { s with script := { s.script with reads := reads } }
    (∀ x ∈ [((none : Option Bool), 0, ([] : List (Answer (List Byte)))), (none, 1, [.value [0xA1]]),
        (none, 1, [.value [0xA2]]), (none, 1, [.value []]), (none, 1, [.failure]), (none, 2, [.value [0xA1], .value []]),
        (none, 2, [.value [0xA1], .failure]), (none, 2, [.value [0xA1], .value [0x33]]), (some true, 1, [.value []]),
        (some true, 1, [.failure]), (some true, 1, [.value [0x33]])],
      let s := at9 x.1 x.2.1 x.2.2
      (∃ r, Receives 227 x.2.1 s r) ∧ s.rx.receiveQueue = [] ∧ s.rx.rxPrefix = x.1 ∧ s.baud.period.getLsbD 15 = true ∧
        s.script.reads = x.2.2) ∧
    (0xA1 : Byte) &&& 0xFE = power.par.syncBase ∧ (0xA2 : Byte) &&& 0xFE ≠ power.par.syncBase := by
  refine ⟨?_, by decide⟩
  intro x hx
  simp only [List.mem_cons, List.not_mem_nil, or_false] at hx
  rcases hx with rfl | rfl | rfl | rfl | rfl | rfl | rfl | rfl | rfl | rfl | rfl <;>
    exact ⟨⟨_, .tick (.answered _ false [] (by decide) (by decide) rfl) (.idle (by decide)) (by decide) (by decide)
      (by decide) (by decide)⟩, by decide⟩
/-- At 198 and at 199 unread lines, where the two clauses meet, with a flush that is answered and one that fails. -/
theorem witness_TickForcesTheOverrunAt200 :
    let failing := { unread 199 with script := { (unread 199).script with flushes := [.failure] } }
    (∀ s ∈ [unread 198, unread 199, failing], s.session.transport.external = true ∧ s.session.available = true ∧
      s.rx.rbf = true ∧ s.cfg.cycleExact = false ∧ s.cfg.safeReceive = false ∧ s.cfg.overrunForced = false ∧
      s.cfg.extDevForced = false ∧ s.rx.receiveQueue = [] ∧ s.script.readAvailables = .value (1, false) :: []) ∧
    (unread 198).rx.unreadLines + 1 < 200 ∧ 200 ≤ (unread 199).rx.unreadLines + 1 ∧
    (unread 199).script.flushes = .value () :: [] ∧ failing.script.flushes = .failure :: [] := by decide
/-- P4 (clear, detecting and holding), each at a tick that brings a receive step and at one cycle less; clear, with no
break and with one a backend reports; and the last tick of the hold. -/
theorem witness_BreakCounterMovesThroughDetectHoldClear :
    let s0 := after .setbrk (onKind .loopback power)
    let s1 := after (.tick 227) s0
    let s2 := after (.tick 227) s1
    let s3 := after (.tick 227) (after (.tick 227) s2)
    let device := { receiving 0x0000 0 [] with
      script := { (receiving 0x0000 0 []).script with readAvailables := [.value (0, true)] } }
    (ReceiverInv s0 ∧ s0.rx.breakCounter = 0 ∧ BreakReported s0 ∧ Crosses 227 s0 ∧ ¬ Crosses 226 s0) ∧
    (ReceiverInv s1 ∧ s1.rx.breakCounter = -1 ∧ Crosses 227 s1 ∧ ¬ Crosses 226 s1) ∧
    (ReceiverInv s2 ∧ s2.rx.breakCounter = 3) ∧ (ReceiverInv s3 ∧ s3.rx.breakCounter = 1) ∧
    (ReceiverInv device ∧ device.rx.breakCounter = 0 ∧ BreakReported device) ∧
    (ReceiverInv idle ∧ idle.rx.breakCounter = 0 ∧ ¬ BreakReported idle) ∧
    (∀ lc ∈ [226, 227], ∀ s ∈ [s0, s1, s2, s3, device, idle], ∃ t, exec (.tick lc) s = .next t) ∧
    exec .clrbrk s1 = .next (after .clrbrk s1) :=
  ⟨⟨by constructor <;> decide, by decide, .inl (by decide), by decide, by decide⟩,
    ⟨by constructor <;> decide, by decide, by decide, by decide⟩, ⟨by constructor <;> decide, by decide⟩,
    ⟨by constructor <;> decide, by decide⟩,
    ⟨by constructor <;> decide, by decide, .inr ⟨by decide, by decide, 0, by decide⟩⟩,
    ⟨by constructor <;> decide, by decide, by rintro (h | ⟨h, -⟩) <;> exact absurd h (by decide)⟩,
    fun _ _ _ _ => ⟨_, rfl⟩, rfl⟩
theorem witness_LoopbackBreakReachesTheDetector :
    let s := after .setbrk (onKind .loopback power)
    SessionInv s ∧ s.session.transport = .loopback ∧ 0 < s.tx.breakTxCounter ∧ s.rx.breakCounter = 0 ∧
      s.baud.rxPeriodCycles ≤ s.rx.rxAccum + 227 :=
  ⟨by constructor <;> decide, by decide, by decide, by decide, by decide⟩
/-- A tick that reports two error codes (an overrun, and a write that fails), one whose flush fails, at which its history
has a failed call with entries after it, and a firing of each kind. -/
theorem witness_TickInterruptsAreBoundedAndOrdered :
    (let s := { unread 199 with
       tx := (stalledOn .realDevice .empty).tx
       script := { (unread 199).script with writeAvailables := [.failure] } }
     exec (.tick 227) s = .next (after (.tick 227) s) ∧
       (after (.tick 227) s).history.countP Entry.isErrorCode = s.history.countP Entry.isErrorCode + 2) ∧
    (let s := { unread 199 with script := { (unread 199).script with flushes := [.failure] } }
     exec (.tick 227) s = .next (after (.tick 227) s) ∧
       (after (.tick 227) s).history.countP Entry.isErrorCode = s.history.countP Entry.isErrorCode + 2 ∧
       (after (.tick 227) s).history =
         s.history ++ ([callEntry s (.readAvailable (.value (1, false)))] ++ callEntry s (.flush .failure) ::
           [eventEntry s (.log .transportFailed), eventEntry s .flush, eventEntry s (.log .overrun)]) ∧
       (callEntry s (.flush .failure)).isFailedCall = true) ∧
    exec .fireTxDone (at' 3790 sent) = .next (after .fireTxDone (at' 3790 sent)) ∧
    exec .fireLoopbackRx (at' 3798 looped) = .next (after .fireLoopbackRx (at' 3798 looped)) :=
  ⟨⟨rfl, by decide⟩, ⟨rfl, by decide⟩, rfl, rfl⟩
theorem witness_RstatusWithoutAConnectedBackend :
    ¬ ((looped.session.transport = .realDevice ∨ looped.session.transport = .sharedMemoryIpc) ∧
      looped.session.available = true) ∧ idle.session.available = false := by decide
/-- An answer, and L7. -/
theorem witness_RstatusOnAConnectedBackend :
    let s1 := scripted { Script.empty with getLineStatuses := [.value allAsserted] } sentDevice
    let s2 := scripted { Script.empty with getLineStatuses := [.failure] } sentDevice
    (∀ s ∈ [s1, s2], s.session.transport = .realDevice ∧ s.session.available = true) ∧
    s1.script.getLineStatuses = .value allAsserted :: [] ∧ s2.script.getLineStatuses = .failure :: [] := by decide
/-- L6, and a change on a loopback session. -/
theorem witness_WstatusWithoutForwarding :
    (takeLine 0x00 0x00 7 looped.lines.dtrOut = looped.lines.dtrOut ∧
      takeLine 0x00 0x00 6 looped.lines.rtsOut = looped.lines.rtsOut) ∧
    takeLine 0xC0 0x3F 7 looped.lines.dtrOut ≠ looped.lines.dtrOut ∧
    ¬ ((looped.session.transport = .realDevice ∨ looped.session.transport = .sharedMemoryIpc) ∧
      looped.session.available = true) := by decide
/-- L5, and the same write failing. -/
theorem witness_WstatusForwardsAChange :
    let s1 := scripted { Script.empty with setLineStatuses := [.value ()] } sentDevice
    let s2 := scripted { Script.empty with setLineStatuses := [.failure] } sentDevice
    (∀ s ∈ [s1, s2], takeLine 0xC0 0x3F 7 s.lines.dtrOut ≠ s.lines.dtrOut ∧ s.session.transport = .realDevice ∧
      s.session.available = true) ∧
    s1.script.setLineStatuses = .value () :: [] ∧ s2.script.setLineStatuses = .failure :: [] := by decide
/-- The empty name, and the loopback token. -/
theorem witness_OpenWithoutABackendCall : select power.par power.side.name = .none ∧
    (let s := { power with side := { power.side with name := power.par.loopToken } }
     select s.par s.side.name = .loopback) := by decide
theorem witness_OpenOfABackend :
    let s := { power with
      side := { power.side with name := ['x'] }
      script := { Script.empty with opens := [.failed] } }
    (select s.par s.side.name).external = true ∧ s.script.opens = .failed :: [] := by decide
/-- A name for each clause. -/
theorem witness_SelectFollowsTheOrderOfTheRule :
    let p := Config.vectorParams
    p.loopToken ≠ p.shmToken ∧ ([] ≠ p.shmToken ∧ [] ≠ p.loopToken ∧ [] ∈ p.noneTokens) ∧
    (p.relayPrefix ∉ p.noneTokens ∧ p.relayPrefix <+: p.relayPrefix ++ ['a']) ∧
    (¬ p.relayPrefix <+: p.tcpPrefix ∧ p.tcpPrefix <+: p.tcpPrefix) ∧
    (¬ p.tcpPrefix <+: p.midiPrefix ∧ p.midiPrefix <+: p.midiPrefix) ∧ ¬ p.midiPrefix <+: ['x'] := by decide
theorem witness_TransmitStimuliLeaveTheReceiver : exec .setbrk sent = .next (after .setbrk sent) := rfl

end Sys2Proof.Tests
end

/-! What a stimulus does to the session: every stimulus but `OPEN` and `CLOSE` keeps the configuration, the transport
and the generation (R8, R13, R99), because each operation it is composed of does. -/

namespace Sys2Proof.Machine

/-- The configuration, the transport and the generation are the same in both states. Availability, which a Failure may
take away (R95), is not part of it. -/
structure KeepsSession (s t : State) : Prop where
  cfg : t.cfg = s.cfg
  transport : t.session.transport = s.session.transport
  gen : t.session.gen = s.session.gen

theorem KeepsSession.refl (s : State) : KeepsSession s s := ⟨rfl, rfl, rfl⟩

theorem KeepsSession.trans {s t u : State} (h1 : KeepsSession s t) (h2 : KeepsSession t u) : KeepsSession s u :=
  ⟨h2.cfg.trans h1.cfg, h2.transport.trans h1.transport, h2.gen.trans h1.gen⟩

theorem TxFrame.keepsSession {s t : State} (h : TxFrame s t) : KeepsSession s t := ⟨h.cfg, h.transport, h.gen⟩

theorem RxFrame.keepsSession {s t : State} (h : RxFrame s t) : KeepsSession s t := ⟨h.cfg, h.transport, h.gen⟩

/-! The period register -/

theorem rescaleRemainder_keepsSession (t newBT : Nat) (s : State) : KeepsSession s (rescaleRemainder t newBT s) := by
  unfold rescaleRemainder
  split
  · split
    · exact ⟨rfl, rfl, rfl⟩
    · exact ⟨rfl, rfl, rfl⟩
  · exact ⟨rfl, rfl, rfl⟩

theorem rescale_keepsSession (t newBT : Nat) (s : State) : KeepsSession s (rescale t newBT s) := by
  unfold rescale
  split
  · exact .refl s
  · exact (rescaleRemainder_keepsSession t newBT s).trans ⟨rfl, rfl, rfl⟩

theorem setPeriod_keepsSession (w : Reg) (s : State) : KeepsSession s (setPeriod w s) := ⟨rfl, rfl, rfl⟩

theorem writePeriod_keepsSession (w : Reg) (s : State) : KeepsSession s (writePeriod w s) := by
  unfold writePeriod
  split
  · exact .refl s
  · have hset := setPeriod_keepsSession w s
    simp only []
    split
    · exact hset.trans (rescale_keepsSession _ _ _)
    · exact hset

/-! The transmit stimuli -/

/-- The state in which `WSERDAT` has put its word in the holding register and logged one it overwrote (R64). -/
def held (w : Reg) (s : State) : State :=
  let r := if s.tx.dataPending then logReason .holdingOverwritten s else s
  { r with tx := { r.tx with holding := w, dataPending := true } }

theorem writeData_eq (w : Reg) (s : State) :
    writeData w s = if (held w s).tx.shiftState = .empty then load (now (held w s)) (held w s) else held w s := rfl

theorem held_keepsSession (w : Reg) (s : State) : KeepsSession s (held w s) := by
  unfold held
  simp only []
  split
  · exact ⟨rfl, rfl, rfl⟩
  · exact ⟨rfl, rfl, rfl⟩

theorem writeData_keepsSession (w : Reg) (s : State) : KeepsSession s (writeData w s) := by
  rw [writeData_eq]
  split
  · exact (held_keepsSession w s).trans (load_frame _ _).keepsSession
  · exact held_keepsSession w s

/-- The checks of R99 on a `TX_DONE` callback, in plain fields. -/
theorem callbackValid_txDone_iff (s : State) :
    callbackValid .txDone s = true ↔ s.side.g = s.session.gen ∧ s.cfg.cycleExact = true ∧
      s.tx.shiftState = .draining ∧ s.tx.breakTxCounter = 0 ∧ s.tx.txDoneAt ≤ s.side.now := by
  simp [callbackValid, txDoneValid, and_assoc]

/-- A firing of `TX_DONE` completes the frame if the callback is valid, and otherwise does nothing (R65, R99). -/
theorem fireTxDone_eq (s : State) :
    fireTxDone s = if callbackValid .txDone s then complete (now s) s else s := by
  have hvalid := callbackValid_txDone_iff s
  unfold fireTxDone
  split
  · next hgen => rw [if_neg (by simp [hvalid, hgen])]
  split
  · next hexact => rw [if_neg (by simp_all)]
  split
  · next hdraining => rw [if_neg (by simp [hvalid, hdraining])]
  split
  · next hwindow => rw [if_neg (by simp [hvalid, Nat.pos_iff_ne_zero.mp hwindow])]
  split
  · next hearly => rw [if_neg (by simp [hvalid, Nat.not_le.mpr hearly])]
  · next hdue => rw [if_pos (by simp_all)]

theorem fireTxDone_keepsSession (s : State) : KeepsSession s (fireTxDone s) := by
  rw [fireTxDone_eq]
  split
  · exact (complete_frame _ s).keepsSession
  · exact .refl s

theorem startBreakWindow_keepsSession (s : State) : KeepsSession s (startBreakWindow s) := by
  unfold startBreakWindow
  simp only []
  split
  · exact ⟨rfl, rfl, rfl⟩
  · exact ⟨rfl, rfl, rfl⟩

theorem assertBreak_keepsSession (s : State) : KeepsSession s (assertBreak s) := by
  unfold assertBreak
  split
  · exact .refl s
  · simp only []
    split
    · exact ⟨rfl, rfl, rfl⟩
    · refine .trans ?_ (startBreakWindow_keepsSession _)
      exact ⟨rfl, rfl, rfl⟩

theorem clearBreak_keepsSession (s : State) : KeepsSession s (clearBreak s) := ⟨rfl, rfl, rfl⟩

/-! The receive stimuli -/

theorem clearRead_keepsSession (s : State) : KeepsSession s (clearRead s) := by
  unfold clearRead
  simp only []
  split
  · exact ⟨rfl, rfl, rfl⟩
  · exact ⟨rfl, rfl, rfl⟩

theorem readData_keepsSession (s : State) : KeepsSession s (readData s) :=
  (clearRead_keepsSession s).trans ⟨rfl, rfl, rfl⟩

theorem acknowledge_keepsSession (s : State) : KeepsSession s (acknowledge s) := ⟨rfl, rfl, rfl⟩

theorem scheduleNextEcho_keepsSession (s : State) : KeepsSession s (scheduleNextEcho s) := by
  unfold scheduleNextEcho
  split
  · exact .refl s
  · exact ⟨rfl, rfl, rfl⟩

/-- A firing of `LOOPBACK_RX` does nothing, or delivers the echo at the head of the queue (R83). -/
theorem fireLoopback_cases (s : State) :
    fireLoopback s = s ∨ ∃ e rest, s.tx.loopQueue = e :: rest ∧
      fireLoopback s = scheduleNextEcho (deliver e.word { s with tx := { s.tx with loopQueue := rest } }) := by
  unfold fireLoopback
  split
  · exact Or.inl rfl
  · split
    · exact Or.inl rfl
    · split
      · exact Or.inl rfl
      · next e rest hq =>
        split
        · exact Or.inl rfl
        · exact Or.inr ⟨e, rest, hq, rfl⟩

theorem fireLoopback_keepsSession (s : State) : KeepsSession s (fireLoopback s) := by
  rcases fireLoopback_cases s with h | ⟨e, rest, -, h⟩ <;> rw [h]
  · exact .refl s
  · have hpop : KeepsSession s { s with tx := { s.tx with loopQueue := rest } } := ⟨rfl, rfl, rfl⟩
    exact (hpop.trans (deliver_frame e.word _).keepsSession).trans (scheduleNextEcho_keepsSession _)

/-! The control lines -/

theorem readStatus_keepsSession (dir cur : Byte) (s : State) : KeepsSession s (readStatus dir cur s) :=
  (afterSource_took s).frame.keepsSession.trans ⟨rfl, rfl, rfl⟩

theorem forwardLines_keepsSession (dtr rts : Bool) (s : State) : KeepsSession s (forwardLines dtr rts s) := by
  unfold forwardLines
  split
  · split
    · exact ⟨rfl, rfl, rfl⟩
    · exact ⟨rfl, rfl, rfl⟩
  · exact .refl s

theorem writeStatus_keepsSession (dir val : Byte) (s : State) : KeepsSession s (writeStatus dir val s) := by
  unfold writeStatus
  simp only []
  split
  · exact .refl s
  · refine .trans ?_ (forwardLines_keepsSession _ _ _)
    exact ⟨rfl, rfl, rfl⟩

/-! The tick -/

theorem tickRx_keepsSession (lc count : Nat) (brk : Bool) (s : State) : KeepsSession s (tickRx lc count brk s) := by
  obtain ⟨n, h⟩ := tickRx_frame lc count brk s
  have haccum : KeepsSession s (accumulated n s) := ⟨rfl, rfl, rfl⟩
  exact haccum.trans h.keepsSession

theorem tickTimers_keepsSession (t : Nat) (s : State) : KeepsSession s (tickTimers t s) :=
  (rxBreakTick_frame s).keepsSession.trans (breakTxTick_frame t _).keepsSession

/-- The five steps of a tick in their order: poll and overrun, transmit, receive, timers (R90). -/
theorem tickBody_keepsSession (lc : Nat) (s : State) : KeepsSession s (tickBody lc s) :=
  (beforeTx_frame _ s).keepsSession
    |>.trans (txTick_frame _ lc _).keepsSession
    |>.trans (tickRx_keepsSession lc _ _ _)
    |>.trans (tickTimers_keepsSession _ _)

/-- Every stimulus but `OPEN` and `CLOSE` keeps the configuration, the transport and the generation (R8, R13). -/
theorem exec_keepsSession {i : Instr} {s t : State} (h : exec i s = .next t) (hopen : i ≠ .openSession)
    (hclose : i ≠ .closeSession) : KeepsSession s t := by
  cases i <;> cases h
  case wserper w => exact writePeriod_keepsSession w s
  case wserdat w => exact writeData_keepsSession w s
  case rserdatr => exact readData_keepsSession s
  case rstatus dir cur => exact readStatus_keepsSession dir cur s
  case wstatus dir val => exact writeStatus_keepsSession dir val s
  case setbrk => exact assertBreak_keepsSession s
  case clrbrk => exact clearBreak_keepsSession s
  case ackrbf => exact acknowledge_keepsSession s
  case tick lc => exact tickBody_keepsSession lc s
  case fireTxDone => exact fireTxDone_keepsSession s
  case fireLoopbackRx => exact fireLoopback_keepsSession s
  case openSession => exact absurd rfl hopen
  case closeSession => exact absurd rfl hclose

/-! The session's start and end -/

/-- Whatever the backend answers, its opening sets transport and availability only: the configuration and the
generation are those of the fresh session (R100). -/
theorem openBackend_cfg_gen (k : Transport) (s : State) :
    (openBackend k s).cfg = s.cfg ∧ (openBackend k s).session.gen = s.session.gen := by
  unfold openBackend
  split
  · exact ⟨rfl, rfl⟩
  · exact ⟨rfl, rfl⟩
  · exact ⟨rfl, rfl⟩

/-- `OPEN` takes the configuration of its side band and a new generation, for every kind of transport (R100). -/
theorem openBody_cfg_gen (s : State) :
    (openBody s).cfg = s.side.cfg ∧ (openBody s).session.gen = s.session.gen + 1 := by
  unfold openBody
  simp only []
  split
  · exact ⟨rfl, rfl⟩
  · split
    · exact ⟨rfl, rfl⟩
    · exact openBackend_cfg_gen _ (freshSession s)

/-- `CLOSE` takes the default configuration and a new generation (R101). -/
theorem closeBody_cfg_gen (s : State) :
    (closeBody s).cfg = .default ∧ (closeBody s).session.gen = s.session.gen + 1 := ⟨rfl, rfl⟩

/-- Settles O13: the frame of every stimulus but `OPEN` and `CLOSE`, and what these two do to the session. -/
theorem onlyOpenAndCloseChangeTheSession : Obligations.OnlyOpenAndCloseChangeTheSession := by
  unfold Obligations.OnlyOpenAndCloseChangeTheSession
  intro i s t h
  refine ⟨fun hopen hclose => ?_, ?_, ?_, ?_⟩
  · obtain ⟨hcfg, htransport, hgen⟩ := exec_keepsSession h hopen hclose
    exact ⟨hcfg, htransport, hgen⟩
  · rintro (rfl | rfl) <;> cases h
    · exact (openBody_cfg_gen s).2
    · exact (closeBody_cfg_gen s).2
  · rintro rfl
    cases h
    exact (openBody_cfg_gen s).1
  · rintro rfl
    cases h
    exact (closeBody_cfg_gen s).1

end Sys2Proof.Machine

/-! The reset state (R13, R115, R116) in its values and under the invariant. -/

namespace Sys2Proof.Machine

/-- The groups of the record after a reset, on any transport that has its availability, meet the invariant: `OPEN`,
`CLOSE` and power-on all start here (R100, R101, R115). -/
theorem inv_of_reset {s : State} (hbaud : s.baud = .reset s.par) (htx : s.tx = .reset) (hrx : s.rx = .reset)
    (hnone : s.session.transport = .none → s.session.available = false)
    (hloop : s.session.transport = .loopback → s.session.available = true) : Inv s where
  shifter := by constructor <;> simp [htx, Tx.reset]
  receiver := by constructor <;> simp [hrx, Rx.reset]
  session := by
    refine ⟨hnone, hloop, ?_, ?_, ?_, ?_, ?_⟩
    · simp [htx, Tx.reset]
    · simp [htx, Tx.reset]
    · simp [hbaud, Baud.reset]
    · simp [hbaud, Baud.reset]
    · simp [htx, Tx.reset]

/-- Settles O9: power-on is such a reset, with no transport and nothing available. -/
theorem resetHasTheStateInvariant : Obligations.ResetHasTheStateInvariant :=
  inv_of_reset rfl rfl rfl (fun _ => rfl) (fun h => nomatch h)

/-- The parameters of the machine meet the spec's conditions, whichever record the free value is (R7, R49). -/
theorem params_legal : Config.params.legal = true := by
  unfold Config.params
  split
  · next h => exact h
  · decide

/-- Settles O59: the fields by their definitions, the parameters by `params_legal`. -/
theorem resetIsTheClosedState : Obligations.ResetIsTheClosedState :=
  ⟨rfl, rfl, rfl, rfl, rfl, rfl, rfl, rfl, rfl, params_legal, readData State.reset, rfl, rfl⟩

end Sys2Proof.Machine

/-! What a step is: nothing, or one stimulus run from the state that has taken it (R30, R32). -/

namespace Sys2Proof.Machine

/-- What a step that is not refused can do (R32, R114). -/
theorem step_cases {s t : State} (h : step s = .next t) :
    t = s ∨ ∃ st rest i, exec i (takeStimulus st rest s) = .next t := by
  unfold step at h
  split at h
  · exact Or.inl (by cases h; rfl)
  · split at h
    · cases h
    · exact Or.inr ⟨_, _, _, h⟩

end Sys2Proof.Machine

/-! The stimuli, said once: the cases of each body, and what it leaves unchanged. -/

namespace Sys2Proof.Machine

/-! Transmit stimuli -/

/-- What a rescale of the frame in the shifter leaves unchanged (R54). -/
structure RescaleFrame (s t : State) : Prop where
  baud : t.baud = s.baud
  rx : t.rx = s.rx
  par : t.par = s.par
  session : t.session = s.session
  shiftState : t.tx.shiftState = s.tx.shiftState
  dataPending : t.tx.dataPending = s.tx.dataPending
  window : t.tx.breakTxCounter = s.tx.breakTxCounter
  echoes : t.tx.loopQueue = s.tx.loopQueue

theorem rescale_frame (t newBT : Nat) (s : State) : RescaleFrame s (rescale t newBT s) := by
  unfold rescale rescaleRemainder
  split
  · exact ⟨rfl, rfl, rfl, rfl, rfl, rfl, rfl, rfl⟩
  · split
    · split
      · exact ⟨rfl, rfl, rfl, rfl, rfl, rfl, rfl, rfl⟩
      · exact ⟨rfl, rfl, rfl, rfl, rfl, rfl, rfl, rfl⟩
    · exact ⟨rfl, rfl, rfl, rfl, rfl, rfl, rfl, rfl⟩

/-- A write of the period does nothing, or sets the period group, and then rescales a frame that is draining (R55). -/
theorem writePeriod_cases (w : Reg) (s : State) :
    writePeriod w s = s ∨ writePeriod w s = setPeriod w s ∨
      (s.tx.shiftState = .draining ∧ writePeriod w s = rescale s.side.now (rateCount w + 1) (setPeriod w s)) := by
  unfold writePeriod
  split
  · exact Or.inl rfl
  · simp only []
    split
    · next hdraining => exact Or.inr (Or.inr ⟨hdraining, rfl⟩)
    · exact Or.inr (Or.inl rfl)

theorem held_tx (w : Reg) (s : State) : (held w s).tx = { s.tx with holding := w, dataPending := true } := by
  unfold held
  simp only []
  split
  · rfl
  · rfl

theorem fireTxDone_frame (s : State) : TxFrame s (fireTxDone s) := by
  rw [fireTxDone_eq]
  split
  · exact complete_frame _ s
  · exact .refl s

/-- An assertion starts a break window, finds one running, or is the second in a row and does nothing (R67). -/
theorem assertBreak_cases (s : State) :
    assertBreak s = s ∨
    (0 < s.tx.breakTxCounter ∧ assertBreak s = { s with
      tx := { s.tx with txBreakAsserted := true }
      history := s.history ++ [eventEntry s (.log .breakOn)] }) ∨
    (s.tx.breakTxCounter = 0 ∧ ∃ rem, assertBreak s = { s with
      tx := { s.tx with txBreakAsserted := true, breakTxCounter := s.par.breakTxLines, txFrozenRem := rem }
      history := s.history ++ [eventEntry s (.log .breakOn)] }) := by
  unfold assertBreak
  split
  · exact Or.inl rfl
  · simp only []
    split
    · next h => exact Or.inr (Or.inl ⟨h, rfl⟩)
    · next h =>
      refine Or.inr (Or.inr ⟨Nat.eq_zero_of_not_pos h, ?_⟩)
      unfold startBreakWindow
      simp only []
      split
      · exact ⟨_, rfl⟩
      · exact ⟨s.tx.txFrozenRem, rfl⟩

/-! Receive stimuli -/

/-- Reading the register clears its flag and the count, and touches the interrupt bookkeeping (R81, R105). -/
theorem readData_rx (s : State) : (readData s).rx = { s.rx with rbf := false, unreadLines := 0 } := by
  simp only [readData, clearRead, giveBack_rx]
  split
  · rfl
  · rfl

/-- The callback of the next echo is an event and nothing more (R83). -/
theorem scheduleNextEcho_eq (s : State) :
    scheduleNextEcho s = s ∨ ∃ e rest, s.tx.loopQueue = e :: rest ∧
      scheduleNextEcho s = schedule .loopbackRx (max e.due (now s)) s := by
  unfold scheduleNextEcho
  split
  · exact Or.inl rfl
  · next e rest h => exact Or.inr ⟨e, rest, h, rfl⟩

theorem scheduleNextEcho_history (s : State) :
    scheduleNextEcho s = { s with history := (scheduleNextEcho s).history } := by
  rcases scheduleNextEcho_eq s with h | ⟨e, rest, -, h⟩ <;> rw [h]
  rfl

/-- A firing of `LOOPBACK_RX` does nothing, or takes the head of the queue and delivers it; the callback it requests is
in the history alone (R83). -/
theorem fireLoopback_delivers (s : State) :
    fireLoopback s = s ∨ ∃ e rest history, s.tx.loopQueue = e :: rest ∧
      fireLoopback s = { deliver e.word { s with tx := { s.tx with loopQueue := rest } } with history := history } := by
  rcases fireLoopback_cases s with h | ⟨e, rest, hq, h⟩
  · exact Or.inl h
  · exact Or.inr ⟨e, rest, _, hq, h.trans (scheduleNextEcho_history _)⟩

theorem fireLoopback_tx (s : State) : ∃ echoes, (fireLoopback s).tx = { s.tx with loopQueue := echoes } := by
  rcases fireLoopback_delivers s with h | ⟨e, rest, history, -, h⟩ <;> rw [h]
  · exact ⟨s.tx.loopQueue, rfl⟩
  · exact ⟨rest, (deliver_frame e.word _).tx⟩

theorem fireLoopback_rx (s : State) :
    (fireLoopback s).rx = s.rx ∨ ∃ w, (fireLoopback s).rx = deliveredRx w s := by
  rcases fireLoopback_delivers s with h | ⟨e, rest, history, -, h⟩ <;> rw [h]
  · exact Or.inl rfl
  · exact Or.inr ⟨e.word, by rw [deliver_eq]; rfl⟩

/-! The session's start and end -/

/-- What `OPEN` and `CLOSE` leave (R100, R101, R115): the reset groups, and a transport that is available unless it is
None. -/
structure SessionReset (s t : State) : Prop where
  baud : t.baud = .reset s.par
  tx : t.tx = .reset
  rx : t.rx = .reset
  par : t.par = s.par
  available : t.session.available = true ↔ t.session.transport ≠ .none

theorem openBody_reset (s : State) : SessionReset s (openBody s) := by
  unfold openBody
  simp only []
  split
  · exact ⟨rfl, rfl, rfl, rfl, by simp⟩
  · next hnone =>
    split
    · exact ⟨rfl, rfl, rfl, rfl, by simp⟩
    · unfold openBackend
      split
      · exact ⟨rfl, rfl, rfl, rfl, by simp [hnone]⟩
      · exact ⟨rfl, rfl, rfl, rfl, by simp⟩
      · exact ⟨rfl, rfl, rfl, rfl, by simp⟩

theorem closeBody_reset (s : State) : SessionReset s (closeBody s) := ⟨rfl, rfl, rfl, rfl, by simp [closeBody]⟩

theorem exec_sessionReset {i : Instr} {s t : State} (h : exec i s = .next t)
    (hsession : i = .openSession ∨ i = .closeSession) : SessionReset s t := by
  rcases hsession with rfl | rfl <;> cases h
  · exact openBody_reset s
  · exact closeBody_reset s

end Sys2Proof.Machine

/-! The period group and the parameters: what writes them, and what leaves them (R7, R13, R55). -/

namespace Sys2Proof.Machine

/-- The period group and the parameters are the same in both states. -/
structure KeepsPeriod (s t : State) : Prop where
  baud : t.baud = s.baud
  par : t.par = s.par

theorem KeepsPeriod.refl (s : State) : KeepsPeriod s s := ⟨rfl, rfl⟩

theorem KeepsPeriod.trans {s t u : State} (h1 : KeepsPeriod s t) (h2 : KeepsPeriod t u) : KeepsPeriod s u :=
  ⟨h2.baud.trans h1.baud, h2.par.trans h1.par⟩

theorem TxFrame.keepsPeriod {s t : State} (h : TxFrame s t) : KeepsPeriod s t := ⟨h.baud, h.par⟩

theorem RxFrame.keepsPeriod {s t : State} (h : RxFrame s t) : KeepsPeriod s t := ⟨h.baud, h.par⟩

theorem held_keepsPeriod (w : Reg) (s : State) : KeepsPeriod s (held w s) := by
  unfold held
  simp only []
  split
  · exact ⟨rfl, rfl⟩
  · exact ⟨rfl, rfl⟩

theorem writeData_keepsPeriod (w : Reg) (s : State) : KeepsPeriod s (writeData w s) := by
  rw [writeData_eq]
  split
  · exact (held_keepsPeriod w s).trans (load_frame _ _).keepsPeriod
  · exact held_keepsPeriod w s

theorem assertBreak_keepsPeriod (s : State) : KeepsPeriod s (assertBreak s) := by
  rcases assertBreak_cases s with h | ⟨-, h⟩ | ⟨-, rem, h⟩ <;> rw [h]
  · exact .refl s
  · exact ⟨rfl, rfl⟩
  · exact ⟨rfl, rfl⟩

end Sys2Proof.Machine

/-! What the operations outside the transmit pipeline leave to it: they write no field it reads, and request no
callback. -/

namespace Sys2Proof.Machine

/-- The entry requests a callback (R11, R27). -/
def Entry.isSchedule (x : Entry) : Bool :=
  match x.record with
  | .event (.schedule _ _ _) => true
  | _ => false

/-- Entries that request no callback leave the one that stands (R22). -/
theorem lastSchedule_of_silent (k : CallbackKind) (new : List Entry) (h : ∀ e ∈ new, e.isSchedule = false) :
    lastSchedule k new = none := by
  induction new with
  | nil => rfl
  | cons e rest ih =>
    have hrest : lastSchedule k rest = none := ih fun x hx => h x (List.mem_cons_of_mem _ hx)
    have he := h e List.mem_cons_self
    simp only [lastSchedule, hrest]
    split
    · next k' cycle gen hrec => simp [Entry.isSchedule, hrec] at he
    · rfl

/-- The history has grown, by entries of which none is of the kind `p`. -/
def MakesNo (p : Entry → Bool) (s t : State) : Prop := ∃ new, t.history = s.history ++ new ∧ ∀ e ∈ new, p e = false

theorem MakesNo.of_history_eq {p : Entry → Bool} {s t : State} (h : t.history = s.history) : MakesNo p s t :=
  ⟨[], by simp [h], by simp⟩

theorem MakesNo.refl {p : Entry → Bool} (s : State) : MakesNo p s s := .of_history_eq rfl

theorem MakesNo.trans {p : Entry → Bool} {s t u : State} (h1 : MakesNo p s t) (h2 : MakesNo p t u) : MakesNo p s u := by
  obtain ⟨a, ha, hpa⟩ := h1
  obtain ⟨b, hb, hpb⟩ := h2
  exact ⟨a ++ b, by rw [hb, ha, List.append_assoc], fun e he => (List.mem_append.mp he).elim (hpa e) (hpb e)⟩

theorem MakesNo.emit {p : Entry → Bool} (e : Event) (s : State) (h : p (eventEntry s e) = false) :
    MakesNo p s (emit e s) := ⟨[eventEntry s e], rfl, by simpa using h⟩

theorem MakesNo.called {p : Entry → Bool} (x : Exchange) (rest : Script) (s : State) (h : p (callEntry s x) = false) :
    MakesNo p s (called x rest s) := ⟨[callEntry s x], rfl, by simpa using h⟩

/-- The history has grown by entries that request no callback. -/
abbrev Silent (s t : State) : Prop := MakesNo Entry.isSchedule s t

theorem Silent.emit (e : Event) (s : State) (h : (eventEntry s e).isSchedule = false) : Silent s (emit e s) :=
  MakesNo.emit e s h

theorem Silent.lastSchedule {s t : State} (h : Silent s t) (k : CallbackKind) :
    lastSchedule k t.history = lastSchedule k s.history := by
  obtain ⟨new, hnew, hsilent⟩ := h
  rw [hnew, lastSchedule_append, lastSchedule_of_silent k new hsilent, Option.none_or]

theorem Took.silent {s t : State} (h : Took s t) : Silent s t := by
  obtain ⟨new, hnew, -, hkind, -⟩ := h.history
  refine ⟨new, hnew, fun e he => ?_⟩
  rcases hkind e he with ⟨x, hx⟩ | ⟨x, hx⟩ <;> simp [Entry.isSchedule, hx]

theorem Asked.silent {s t : State} (h : Asked s t) : Silent s t := by
  obtain ⟨new, hnew, -, hkind, -⟩ := h.history
  refine ⟨new, hnew, fun e he => ?_⟩
  rcases hkind e he with ⟨x, hx⟩ | ⟨b, n, hx⟩ | hx <;> simp [Entry.isSchedule, hx]

/-- A transport with no backend behind it keeps its availability: the engine never calls it (R21, R94). -/
def KeepsInternal (s t : State) : Prop := s.session.transport.external = false → t.session = s.session

/-- What every operation outside the transmit pipeline, the period register and the session's start and end keeps. -/
structure OffTransmit (s t : State) : Prop where
  baud : t.baud = s.baud
  par : t.par = s.par
  tx : t.tx = s.tx
  cfg : t.cfg = s.cfg
  transport : t.session.transport = s.session.transport
  gen : t.session.gen = s.session.gen
  internal : KeepsInternal s t
  silent : Silent s t

theorem OffTransmit.refl (s : State) : OffTransmit s s := ⟨rfl, rfl, rfl, rfl, rfl, rfl, fun _ => rfl, .refl s⟩

theorem OffTransmit.trans {s t u : State} (h1 : OffTransmit s t) (h2 : OffTransmit t u) : OffTransmit s u where
  baud := h2.baud.trans h1.baud
  par := h2.par.trans h1.par
  tx := h2.tx.trans h1.tx
  cfg := h2.cfg.trans h1.cfg
  transport := h2.transport.trans h1.transport
  gen := h2.gen.trans h1.gen
  internal hs := (h2.internal (by rw [h1.transport]; exact hs)).trans (h1.internal hs)
  silent := h1.silent.trans h2.silent

theorem OffTransmit.keepsPeriod {s t : State} (h : OffTransmit s t) : KeepsPeriod s t := ⟨h.baud, h.par⟩

theorem RxFrame.offTransmit {s t : State} (h : RxFrame s t) (internal : KeepsInternal s t) (silent : Silent s t) :
    OffTransmit s t := ⟨h.baud, h.par, h.tx, h.cfg, h.transport, h.gen, internal, silent⟩

/-! Receiving -/

theorem deliver_silent (w : Reg) (s : State) : Silent s (deliver w s) := by
  refine ⟨deliveredEvents s, by rw [deliver_eq], fun e he => ?_⟩
  unfold deliveredEvents at he
  split at he <;> split at he <;> simp_all [eventEntry, Entry.isSchedule]

theorem deliver_session (w : Reg) (s : State) : (deliver w s).session = s.session := by rw [deliver_eq]

theorem deliver_offTransmit (w : Reg) (s : State) : OffTransmit s (deliver w s) :=
  (deliver_frame w s).offTransmit (fun _ => deliver_session w s) (deliver_silent w s)

/-- An internal transport brings a word only from the queue (R73, R94). -/
theorem takeWord_internal (count : Nat) (s : State) : KeepsInternal s (takeWord count s) := by
  intro hs
  unfold takeWord
  split
  · rw [intakeFromTransport_closed count s (Or.inl hs)]
  · split
    · rw [intakeFromTransport_closed count s (Or.inl hs)]
    · rw [deliver_session]

theorem takeWord_silent (count : Nat) (s : State) : Silent s (takeWord count s) := by
  rcases takeWord_cases count s with ⟨w, rest, -, -, h⟩ | ⟨r, hr, h | ⟨w, h⟩⟩ <;> rw [h]
  · exact deliver_silent w { s with rx := { s.rx with receiveQueue := rest } }
  · exact hr.silent
  · exact hr.silent.trans (deliver_silent w r)

theorem takeWord_offTransmit (count : Nat) (s : State) : OffTransmit s (takeWord count s) :=
  (takeWord_frame count s).offTransmit (takeWord_internal count s) (takeWord_silent count s)

theorem detectBreak_offTransmit (s : State) : OffTransmit s (detectBreak s) :=
  (detectBreak_frame s).offTransmit (fun _ => rfl) (Silent.emit (.log .breakDetected) s rfl)

theorem detectingStep_offTransmit (s : State) : OffTransmit s (detectingStep s) := by
  refine (detectingStep_frame s).offTransmit (fun _ => ?_) ?_
  · unfold detectingStep
    simp only []
    split
    · rfl
    · rfl
  · unfold detectingStep
    simp only []
    split
    · exact Silent.emit (.log .breakHold) s rfl
    · exact .refl s

theorem rxStep_offTransmit (count : Nat) (brk : Bool) (s : State) : OffTransmit s (rxStep count brk s) := by
  unfold rxStep
  split
  · exact .refl s
  · split
    · exact detectingStep_offTransmit s
    · split
      · exact (detectBreak_offTransmit s).trans (takeWord_offTransmit count _)
      · exact takeWord_offTransmit count s

theorem accumulated_offTransmit (n : Nat) (s : State) : OffTransmit s (accumulated n s) :=
  ⟨rfl, rfl, rfl, rfl, rfl, rfl, fun _ => rfl, .refl s⟩

theorem tickRx_offTransmit (lc count : Nat) (brk : Bool) (s : State) : OffTransmit s (tickRx lc count brk s) := by
  by_cases h : s.baud.rxPeriodCycles ≤ s.rx.rxAccum + lc
  · rw [tickRx_crossing lc count brk s h]
    exact (accumulated_offTransmit _ s).trans (rxStep_offTransmit count brk _)
  · rw [tickRx_waiting lc count brk s h]
    exact accumulated_offTransmit _ s

theorem rxBreakTick_offTransmit (s : State) : OffTransmit s (rxBreakTick s) := by
  refine (rxBreakTick_frame s).offTransmit (fun _ => ?_) ?_
  all_goals rcases rxBreakTick_cases s with ⟨-, h⟩ | ⟨-, h⟩ | ⟨-, h⟩ <;> rw [h]
  · exact .refl s
  · exact .refl s
  · exact Silent.emit (.log .breakClear) s rfl

/-! The poll and the overrun -/

/-- What the poll counts comes from an available external backend (R96). -/
theorem pollResult_pos {s : State} (h : 0 < (pollResult s).1) :
    s.session.transport.external = true ∧ s.session.available = true ∧
      readAvailableAnswer s = .value (pollResult s) := by
  unfold pollResult at h ⊢
  split
  · next hl => simp [hl] at h
  · next hl =>
    split
    · next hask =>
      have hopen : s.session.transport.external = true ∧ s.session.available = true := by
        simpa [pollAsks] using hask
      refine ⟨hopen.1, hopen.2, ?_⟩
      cases ha : readAvailableAnswer s with
      | failure => simp [hl, hask, ha] at h
      | value x => rfl
    · next hask => simp [hl, hask] at h

/-- The forced overrun, in the order of R80: the flush and its answer, `Flush`, the log. -/
theorem forceOverrun_silent (s : State) : Silent s (forceOverrun s) := by
  rcases forceOverrun_cases s with ⟨-, h⟩ | ⟨-, h⟩ <;> rw [h] <;>
    exact ⟨_, rfl, by simp [callEntry, eventEntry, Entry.isSchedule]⟩

theorem rxOverrunTick_silent (count : Nat) (s : State) : Silent s (rxOverrunTick count s) := by
  rcases rxOverrunTick_cases count s with ⟨-, -, h⟩ | ⟨-, -, -, h⟩ | ⟨-, -, -, h⟩ <;> rw [h]
  · exact .refl s
  · exact .refl s
  · exact forceOverrun_silent (setUnread _ s)

/-- The state of a tick before its transmit part (R90, steps 1 and 2). -/
def beforeTx (s : State) : State := rxOverrunTick (pollResult s).1 (polled s)

theorem tickBody_eq_parts (lc : Nat) (s : State) : tickBody lc s =
    breakTxTick s.side.now (rxBreakTick (tickRx lc (countAfterOverrun (pollResult s).1 (polled s)) (pollResult s).2
      (txTick s.side.now lc (beforeTx s)))) := by
  have hside : (beforeTx s).side = s.side := (beforeTx_frame _ s).side
  show breakTxTick (beforeTx s).side.now (rxBreakTick (tickRx lc _ _ (txTick (beforeTx s).side.now lc _))) = _
  rw [hside]
  rfl

/-- An internal transport is not asked, and with nothing counted no overrun is forced (R80, R96). -/
theorem beforeTx_internal (s : State) : KeepsInternal s (beforeTx s) := by
  intro hs
  have hnone : (pollResult s).1 = 0 := by
    by_contra hcount
    have hext := (pollResult_pos (Nat.pos_of_ne_zero hcount)).1
    simp [hs] at hext
  unfold beforeTx
  rw [polled_closed s (Or.inl hs), hnone]
  rcases rxOverrunTick_cases 0 s with ⟨-, -, h⟩ | ⟨hcounts, -⟩ | ⟨hcounts, -⟩
  · rw [h]; rfl
  · simp [overrunCounts] at hcounts
  · simp [overrunCounts] at hcounts

theorem beforeTx_offTransmit (s : State) : OffTransmit s (beforeTx s) :=
  (beforeTx_frame _ s).offTransmit (beforeTx_internal s) ((polled_took s).silent.trans (rxOverrunTick_silent _ _))

/-! The stimuli of the receiver and of the control lines -/

theorem readData_offTransmit (s : State) : OffTransmit s (readData s) := by
  unfold readData clearRead
  simp only []
  split
  · exact ⟨rfl, rfl, rfl, rfl, rfl, rfl, fun _ => rfl, Silent.emit .irqRBF s rfl⟩
  · exact ⟨rfl, rfl, rfl, rfl, rfl, rfl, fun _ => rfl, .refl s⟩

theorem acknowledge_offTransmit (s : State) : OffTransmit s (acknowledge s) :=
  ⟨rfl, rfl, rfl, rfl, rfl, rfl, fun _ => rfl, .refl s⟩

/-- Only an external backend has a line mechanism (R85). -/
theorem linesConnected_internal {s : State} (h : s.session.transport.external = false) : linesConnected s = false := by
  cases ht : s.session.transport <;> simp_all [linesConnected, Transport.hasLines, Transport.external]

theorem afterSource_internal (s : State) : KeepsInternal s (afterSource s) := fun hs => by
  simp [afterSource, linesConnected_internal hs]

theorem readStatus_offTransmit (dir cur : Byte) (s : State) : OffTransmit s (readStatus dir cur s) := by
  have hsource : OffTransmit s (afterSource s) :=
    (afterSource_took s).frame.offTransmit (afterSource_internal s) (afterSource_took s).silent
  exact hsource.trans ⟨rfl, rfl, rfl, rfl, rfl, rfl, fun _ => rfl, .refl _⟩

theorem forwardLines_offTransmit (dtr rts : Bool) (s : State) : OffTransmit s (forwardLines dtr rts s) := by
  unfold forwardLines
  split
  · next hc =>
    have hinternal : ∀ t, KeepsInternal s t := fun t hs => by simp [linesConnected_internal hs] at hc
    have hcall : Silent s (calledSetLineStatus dtr rts s) := MakesNo.called _ _ s rfl
    split
    · exact ⟨rfl, rfl, rfl, rfl, rfl, rfl, hinternal _, hcall.trans (Silent.emit (.log .transportFailed) _ rfl)⟩
    · exact ⟨rfl, rfl, rfl, rfl, rfl, rfl, hinternal _, hcall.trans (Silent.emit (.setLines dtr rts) _ rfl)⟩
  · exact .refl s

theorem writeStatus_offTransmit (dir val : Byte) (s : State) : OffTransmit s (writeStatus dir val s) := by
  unfold writeStatus
  simp only []
  split
  · exact .refl s
  · refine .trans ?_ (forwardLines_offTransmit _ _ _)
    exact ⟨rfl, rfl, rfl, rfl, rfl, rfl, fun _ => rfl, .refl s⟩

end Sys2Proof.Machine

namespace Sys2Proof.Machine

/-! The period group, stimulus by stimulus -/

theorem fireLoopback_keepsPeriod (s : State) : KeepsPeriod s (fireLoopback s) := by
  rcases fireLoopback_delivers s with h | ⟨e, rest, history, -, h⟩ <;> rw [h]
  · exact .refl s
  · have hdeliver := deliver_frame e.word { s with tx := { s.tx with loopQueue := rest } }
    exact ⟨hdeliver.baud, hdeliver.par⟩

theorem tickBody_keepsPeriod (lc : Nat) (s : State) : KeepsPeriod s (tickBody lc s) := by
  rw [tickBody_eq_parts]
  exact (beforeTx_offTransmit s).keepsPeriod
    |>.trans (txTick_frame _ lc _).keepsPeriod
    |>.trans (tickRx_offTransmit lc _ _ _).keepsPeriod
    |>.trans (rxBreakTick_offTransmit _).keepsPeriod
    |>.trans (breakTxTick_frame _ _).keepsPeriod

/-- Every stimulus but `WSERPER`, `OPEN` and `CLOSE` keeps the period group (R55). -/
theorem exec_keepsPeriod {i : Instr} {s t : State} (h : exec i s = .next t) (hperiod : ∀ w, i ≠ .wserper w)
    (hopen : i ≠ .openSession) (hclose : i ≠ .closeSession) : KeepsPeriod s t := by
  cases i <;> cases h
  case wserper w => exact absurd rfl (hperiod w)
  case wserdat w => exact writeData_keepsPeriod w s
  case rserdatr => exact (readData_offTransmit s).keepsPeriod
  case rstatus dir cur => exact (readStatus_offTransmit dir cur s).keepsPeriod
  case wstatus dir val => exact (writeStatus_offTransmit dir val s).keepsPeriod
  case setbrk => exact assertBreak_keepsPeriod s
  case clrbrk => exact ⟨rfl, rfl⟩
  case ackrbf => exact (acknowledge_offTransmit s).keepsPeriod
  case tick lc => exact tickBody_keepsPeriod lc s
  case fireTxDone => exact (fireTxDone_frame s).keepsPeriod
  case fireLoopbackRx => exact fireLoopback_keepsPeriod s
  case openSession => exact absurd rfl hopen
  case closeSession => exact absurd rfl hclose

/-- Settles O16: the frame of the other stimuli, and the reset values of R13. -/
theorem onlyWserperChangesThePeriod : Obligations.OnlyWserperChangesThePeriod := by
  intro i s t h hperiod
  split
  · next hsession => exact (exec_sessionReset h hsession).baud
  · next hsession =>
    obtain ⟨hopen, hclose⟩ := not_or.mp hsession
    exact (exec_keepsPeriod h hperiod hopen hclose).baud

end Sys2Proof.Machine

/-! The shifter (R18; R24, items 1, 2 and 5): every operation of the transmit pipeline keeps its invariant, and a load
or the end of a frame sets it up from any state. -/

namespace Sys2Proof.Machine

theorem ShifterInv.of_tx_eq {s t : State} (h : ShifterInv s) (htx : t.tx = s.tx) : ShifterInv t := by
  obtain ⟨hloaded, hbusy, hemitted, hbits, hbytes, hidle, hlength, htime⟩ := h
  constructor <;> rw [htx] <;> assumption

/-- The fields of the transmit group that the shifter's invariant does not read: the holding register, the deadlines,
the break generator and the echoes; and, while the shifter is busy, the accumulator and the pending flag. -/
theorem ShifterInv.of_busy {s t : State} (h : ShifterInv s) (hbusy : s.tx.shiftState ≠ .empty)
    (hstate : t.tx.shiftState = s.tx.shiftState) (hbits : t.tx.shiftBits = s.tx.shiftBits)
    (htime : t.tx.txBitTime = s.tx.txBitTime) (hcycles : t.tx.txFrameCycles = s.tx.txFrameCycles)
    (hbuf : t.tx.emitBuf = s.tx.emitBuf) (hidx : t.tx.emitIdx = s.tx.emitIdx) : ShifterInv t where
  notLoaded := by rw [hstate]; exact h.notLoaded
  busy := by rw [hstate, hbits]; exact h.busy
  emitted := by rw [hidx, hbuf]; exact h.emitted
  bits := by rw [hbits]; exact h.bits
  bytes := by rw [hbuf]; exact h.bytes
  idle he := absurd (hstate ▸ he) hbusy
  length := by rw [hcycles, htime, hbits]; exact h.length
  bitTime _ := by rw [htime]; exact h.bitTime hbusy

/-- A load fills the shifter whatever it held (R57). -/
theorem load_shifterInv (t : Nat) (s : State) : ShifterInv (load t s) := by
  have hbits := frameBits_eq (ninebit s.baud.period)
  constructor
  all_goals simp only [load_tx, loadTx, loadFrame, hbits]
  · simp
  · split <;> simp
  · simp
  · split <;> simp
  · split
    · simp
    · exact frame_length_le _ _ _
  · simp
  · simp

/-- The end of a frame empties the shifter, or fills it with the waiting word (R62). -/
theorem finish_shifterInv (t : Nat) (s : State) : ShifterInv (finish t s) := by
  cases h : s.tx.dataPending with
  | false => rw [finish_idle t s h]; constructor <;> simp [emptiedTx, h]
  | true => rw [finish_loads t s h]; exact load_shifterInv t _

/-- A stall keeps the frame in the shifter (R61). -/
theorem stall_shifterInv {s : State} (h : ShifterInv s) (hbusy : s.tx.shiftState ≠ .empty) : ShifterInv (stall s) where
  notLoaded := by simp
  busy := by
    have hpos : 0 < s.tx.shiftBits := h.busy.mp (by
      cases hs : s.tx.shiftState
      case empty => exact absurd hs hbusy
      case loaded => exact absurd hs h.notLoaded
      case draining => simp
      case stalled => simp)
    simpa using hpos
  emitted := h.emitted
  bits := h.bits
  bytes := h.bytes
  idle := by simp
  length := h.length
  bitTime _ := h.bitTime hbusy

/-- Asking the transport moves the count of bytes written only, and not past the frame (R61, R94). -/
theorem Asked.shifterInv {s r : State} (ha : Asked s r) (h : ShifterInv s) : ShifterInv r := by
  have hidx := (ha.idx h.emitted).2
  obtain ⟨hloaded, hbusy, -, hbits, hbytes, hidle, hlength, htime⟩ := h
  constructor <;> rw [ha.tx] <;> assumption

theorem complete_shifterInv (t : Nat) {s : State} (h : ShifterInv s) (hbusy : s.tx.shiftState ≠ .empty) :
    ShifterInv (complete t s) := by
  rcases complete_cases t s with hc | ⟨-, -, hc⟩ <;> rw [hc]
  · exact finish_shifterInv t s
  · obtain ⟨r, hr, he | he⟩ := tryEmit_cases t s <;> rw [he]
    · exact stall_shifterInv (hr.shifterInv h) (by rw [hr.tx]; exact hbusy)
    · exact finish_shifterInv t r

theorem txTick_shifterInv (t lc : Nat) {s : State} (h : ShifterInv s) : ShifterInv (txTick t lc s) := by
  rcases txTick_cases t lc s with ⟨hs, ht⟩ | ⟨hs, -, -, -, ht⟩ | ⟨hs, -, -, -, ht⟩ | ⟨-, -, ht⟩ <;> rw [ht]
  · exact complete_shifterInv t h (by simp [hs])
  · exact complete_shifterInv t (h.of_busy (by simp [hs]) rfl rfl rfl rfl rfl rfl) (by simp [hs])
  · exact h.of_busy (by simp [hs]) rfl rfl rfl rfl rfl rfl
  · exact h

/-- The fields of the shifter are no matter of the break generator, the echoes or the deadlines. -/
theorem ShifterInv.with_timers {s : State} (h : ShifterInv s) (asserted : Bool) (window done rem : Nat)
    (echoes : List Echo) (history : List Entry) : ShifterInv { s with
      tx := { s.tx with txBreakAsserted := asserted, breakTxCounter := window, txDoneAt := done, txFrozenRem := rem,
                        loopQueue := echoes }
      history := history } := by
  obtain ⟨hloaded, hbusy, hemitted, hbits, hbytes, hidle, hlength, htime⟩ := h
  constructor <;> assumption

theorem breakTxTick_shifterInv (t : Nat) {s : State} (h : ShifterInv s) : ShifterInv (breakTxTick t s) := by
  rcases breakTxTick_cases t s with ⟨-, ht⟩ | ⟨-, ht⟩ | ⟨-, -, ht⟩ | ⟨-, -, -, ht⟩ <;> rw [ht]
  · exact h
  · exact h.with_timers _ _ _ _ _ _
  · exact h.with_timers _ _ _ _ _ _
  · exact h.with_timers _ _ _ _ _ _

theorem assertBreak_shifterInv {s : State} (h : ShifterInv s) : ShifterInv (assertBreak s) := by
  rcases assertBreak_cases s with ht | ⟨-, ht⟩ | ⟨-, rem, ht⟩ <;> rw [ht]
  · exact h
  · exact h.with_timers _ _ _ _ _ _
  · exact h.with_timers _ _ _ _ _ _

theorem fireTxDone_shifterInv {s : State} (h : ShifterInv s) : ShifterInv (fireTxDone s) := by
  rw [fireTxDone_eq]
  split
  · next hvalid =>
    obtain ⟨-, -, hdraining, -, -⟩ := (callbackValid_txDone_iff s).mp hvalid
    exact complete_shifterInv _ h (by simp [hdraining])
  · exact h

theorem writeData_shifterInv (w : Reg) {s : State} (h : ShifterInv s) : ShifterInv (writeData w s) := by
  rw [writeData_eq]
  split
  · exact load_shifterInv _ _
  · next hbusy =>
    have htx := held_tx w s
    rw [htx] at hbusy
    exact h.of_busy hbusy (by rw [htx]) (by rw [htx]) (by rw [htx]) (by rw [htx]) (by rw [htx]) (by rw [htx])

/-- What a rescale of the remaining fraction moves: the deadline, the frozen remainder or the accumulator (R54). -/
theorem rescaleRemainder_tx (t newBT : Nat) (s : State) : ∃ done rem accum,
    (rescaleRemainder t newBT s).tx = { s.tx with txDoneAt := done, txFrozenRem := rem, txAccum := accum } := by
  unfold rescaleRemainder
  split
  · split
    · exact ⟨_, _, _, rfl⟩
    · exact ⟨_, _, _, rfl⟩
  · exact ⟨_, _, _, rfl⟩

theorem rescale_shifterInv (t newBT : Nat) {s : State} (h : ShifterInv s) (hbusy : s.tx.shiftState ≠ .empty)
    (hpos : 0 < newBT) : ShifterInv (rescale t newBT s) := by
  unfold rescale
  split
  · exact h
  · obtain ⟨done, rem, accum, htx⟩ := rescaleRemainder_tx t newBT s
    obtain ⟨hloaded, hbits, hemitted, hcount, hbytes, -, -, -⟩ := h
    constructor <;> simp only [htx]
    · exact hloaded
    · exact hbits
    · exact hemitted
    · exact hcount
    · exact hbytes
    · exact fun he => absurd he hbusy
    · exact fun _ => hpos

theorem writePeriod_shifterInv (w : Reg) {s : State} (h : ShifterInv s) : ShifterInv (writePeriod w s) := by
  unfold writePeriod
  split
  · exact h
  · have hset : ShifterInv (setPeriod w s) := h.of_tx_eq rfl
    simp only []
    split
    · next hdraining => exact rescale_shifterInv _ _ hset (by simp [hdraining]) (Nat.succ_pos _)
    · exact hset

theorem fireLoopback_shifterInv {s : State} (h : ShifterInv s) : ShifterInv (fireLoopback s) := by
  obtain ⟨echoes, htx⟩ := fireLoopback_tx s
  obtain ⟨hloaded, hbusy, hemitted, hbits, hbytes, hidle, hlength, htime⟩ := h
  constructor <;> rw [htx] <;> assumption

theorem tickBody_shifterInv (lc : Nat) {s : State} (h : ShifterInv s) : ShifterInv (tickBody lc s) := by
  rw [tickBody_eq_parts]
  have hbefore : ShifterInv (beforeTx s) := h.of_tx_eq (beforeTx_offTransmit s).tx
  have htx := txTick_shifterInv s.side.now lc hbefore
  exact breakTxTick_shifterInv _
    (htx.of_tx_eq ((rxBreakTick_offTransmit _).tx.trans (tickRx_offTransmit lc _ _ _).tx))

/-- Every stimulus but `OPEN` and `CLOSE` keeps the shifter's invariant. -/
theorem exec_shifterInv {i : Instr} {s t : State} (h : exec i s = .next t) (hopen : i ≠ .openSession)
    (hclose : i ≠ .closeSession) (hinv : ShifterInv s) : ShifterInv t := by
  cases i <;> cases h
  case wserper w => exact writePeriod_shifterInv w hinv
  case wserdat w => exact writeData_shifterInv w hinv
  case rserdatr => exact hinv.of_tx_eq (readData_offTransmit s).tx
  case rstatus dir cur => exact hinv.of_tx_eq (readStatus_offTransmit dir cur s).tx
  case wstatus dir val => exact hinv.of_tx_eq (writeStatus_offTransmit dir val s).tx
  case setbrk => exact assertBreak_shifterInv hinv
  case clrbrk => exact hinv.with_timers _ _ _ _ _ _
  case ackrbf => exact hinv.of_tx_eq rfl
  case tick lc => exact tickBody_shifterInv lc hinv
  case fireTxDone => exact fireTxDone_shifterInv hinv
  case fireLoopbackRx => exact fireLoopback_shifterInv hinv
  case openSession => exact absurd rfl hopen
  case closeSession => exact absurd rfl hclose

end Sys2Proof.Machine

/-! The receiver (R19; R24, items 3, 4, 6 and 7; R80): every operation of the receive pipeline keeps its invariant. -/

namespace Sys2Proof.Machine

/-- The invariant reads the receive group, the parameters and the timing mode. -/
theorem ReceiverInv.of_eq {s t : State} (h : ReceiverInv s) (hrx : t.rx = s.rx) (hpar : t.par = s.par)
    (hcfg : t.cfg = s.cfg) : ReceiverInv t := by
  obtain ⟨hregister, hqueue, hunread, hphase, hmode⟩ := h
  constructor
  · rw [hrx]; exact hregister
  · rw [hrx, hpar]; exact hqueue
  · rw [hrx]; exact hunread
  · rw [hrx, hpar]; exact hphase
  · rw [hrx, hcfg]; exact hmode

theorem TxFrame.receiverInv {s t : State} (hf : TxFrame s t) (h : ReceiverInv s) : ReceiverInv t :=
  h.of_eq hf.rx hf.par hf.cfg

/-- A word kept to the ten bits of the register has none above them (R71). -/
theorem masked_register (w : Reg) : w &&& 0x03FF &&& 0xFC00 = 0 := by
  rw [BitVec.and_assoc, show (0x03FF : Reg) &&& 0xFC00 = 0 by decide]
  exact BitVec.and_zero

/-- The break detector and the overrun flag are the same in both receive groups. -/
structure KeepsDetector (x y : Rx) : Prop where
  counter : y.breakCounter = x.breakCounter
  delay : y.breakDelay = x.breakDelay
  overrun : y.overrun = x.overrun

theorem deliveredRx_keepsDetector (w : Reg) (s : State) : KeepsDetector s.rx (deliveredRx w s) := by
  unfold deliveredRx
  split
  · split
    · exact ⟨rfl, rfl, rfl⟩
    · exact ⟨rfl, rfl, rfl⟩
  · exact ⟨rfl, rfl, rfl⟩

/-- A delivered word is kept to ten bits, or queued where the queue has room, or dropped (R26, R79). -/
theorem deliver_receiverInv (w : Reg) {s : State} (h : ReceiverInv s) : ReceiverInv (deliver w s) := by
  obtain ⟨hcounter, hdelay, hoverrun⟩ := deliveredRx_keepsDetector w s
  rw [deliver_eq]
  refine ⟨?_, ?_, ?_, by simp only [hcounter, hdelay]; exact h.phase, by simp only [hoverrun]; exact h.overrunMode⟩
  all_goals
    simp only [deliveredRx]
    split
  · split
    · exact h.register
    · exact h.register
  · exact masked_register w
  · split
    · next hroom => simpa using hroom
    · exact h.queue
  · exact h.queue
  · split
    · exact h.unread
    · exact h.unread
  · exact Nat.succ_pos _

/-- The ninth bit that waits for its data byte is no matter of the invariant. -/
theorem Took.receiverInv {s r : State} (hr : Took s r) (h : ReceiverInv s) : ReceiverInv r := by
  obtain ⟨hregister, hqueue, hunread, hphase, hmode⟩ := h
  constructor <;> rw [hr.rx] <;> simp only [hr.par, hr.cfg] <;> assumption

theorem accumulated_receiverInv (n : Nat) {s : State} (h : ReceiverInv s) : ReceiverInv (accumulated n s) := by
  obtain ⟨hregister, hqueue, hunread, hphase, hmode⟩ := h
  constructor <;> assumption

theorem takeWord_receiverInv (count : Nat) {s : State} (h : ReceiverInv s) : ReceiverInv (takeWord count s) := by
  rcases takeWord_cases count s with ⟨w, rest, hq, -, ht⟩ | ⟨r, hr, ht | ⟨w, ht⟩⟩ <;> rw [ht]
  · have hqueue := h.queue
    rw [hq, List.length_cons] at hqueue
    exact deliver_receiverInv w ⟨h.register, Nat.le_of_succ_le hqueue, h.unread, h.phase, h.overrunMode⟩
  · exact hr.receiverInv h
  · exact deliver_receiverInv w (hr.receiverInv h)

/-- Detecting lasts one receive step (D25), so the state detected in is the one R19 names. -/
theorem detectBreak_receiverInv {s : State} (h : ReceiverInv s) : ReceiverInv (detectBreak s) :=
  ⟨h.register, h.queue, h.unread, Or.inl ⟨rfl, rfl⟩, h.overrunMode⟩

/-- The step that ends detecting: the hold begins, and a waiting ninth bit is forgotten (R73, R74). -/
theorem detectingStep_eq {s : State} (h : s.rx.breakDelay = 1) : detectingStep s = { s with
    rx := { s.rx with breakDelay := 0, breakCounter := (s.par.breakRxLines : Int), rxPrefix := none }
    history := s.history ++ [eventEntry s (.log .breakHold)] } := by
  simp [detectingStep, h, logReason, emit, eventEntry]

theorem rxStep_receiverInv (count : Nat) (brk : Bool) {s : State} (h : ReceiverInv s) :
    ReceiverInv (rxStep count brk s) := by
  unfold rxStep
  split
  · exact h
  · split
    · next hneg =>
      have hdelay : s.rx.breakDelay = 1 := by
        rcases h.phase with ⟨-, hdelay⟩ | ⟨hnonneg, -, -⟩
        · exact hdelay
        · omega
      rw [detectingStep_eq hdelay]
      exact ⟨h.register, h.queue, h.unread, Or.inr ⟨Int.natCast_nonneg _, le_refl _, rfl⟩, h.overrunMode⟩
    · split
      · exact takeWord_receiverInv count (detectBreak_receiverInv h)
      · exact takeWord_receiverInv count h

theorem tickRx_receiverInv (lc count : Nat) (brk : Bool) {s : State} (h : ReceiverInv s) :
    ReceiverInv (tickRx lc count brk s) := by
  by_cases hc : s.baud.rxPeriodCycles ≤ s.rx.rxAccum + lc
  · rw [tickRx_crossing lc count brk s hc]
    exact rxStep_receiverInv count brk (accumulated_receiverInv _ h)
  · rw [tickRx_waiting lc count brk s hc]
    exact accumulated_receiverInv _ h

/-- The hold counts down to clear (R75). -/
theorem rxBreakTick_receiverInv {s : State} (h : ReceiverInv s) : ReceiverInv (rxBreakTick s) := by
  have hphase := h.phase
  rcases rxBreakTick_cases s with ⟨-, ht⟩ | ⟨hlt, ht⟩ | ⟨hone, ht⟩ <;> rw [ht]
  · exact h
  · refine ⟨h.register, h.queue, h.unread, Or.inr ?_, h.overrunMode⟩
    simp only []
    omega
  · refine ⟨h.register, h.queue, h.unread, Or.inr ?_, h.overrunMode⟩
    simp only []
    omega

/-- A tick that counts toward the overrun is outside cycle-exact mode, with the register full and the gate
shut (R80). -/
theorem overrunCounts_iff (count : Nat) (s : State) :
    overrunCounts count s = true ↔ ¬ GateOpen s ∧ 0 < count := by
  rw [← canReceive_iff]
  cases hx : s.cfg.cycleExact <;> simp [overrunCounts, canReceive, hx]

/-- The count stops short of 200, where the overrun clears it, and OVRUN is set outside cycle-exact mode only (R80). -/
theorem rxOverrunTick_receiverInv (count : Nat) {s : State} (h : ReceiverInv s) :
    ReceiverInv (rxOverrunTick count s) := by
  rcases rxOverrunTick_cases count s with ⟨-, -, ht⟩ | ⟨-, hlt, -, ht⟩ | ⟨hcounts, -, -, ht⟩ <;> rw [ht]
  · exact ⟨h.register, h.queue, Nat.succ_pos _, h.phase, h.overrunMode⟩
  · exact ⟨h.register, h.queue, hlt, h.phase, h.overrunMode⟩
  · have hshut := ((overrunCounts_iff count s).mp hcounts).1
    have hrx := forceOverrun_rx (setUnread (s.rx.unreadLines + 1) s)
    have hframe := forceOverrun_frame (setUnread (s.rx.unreadLines + 1) s)
    constructor <;> simp only [hrx, overrunRx, setUnread_rx, hframe.par, hframe.cfg, setUnread_par, setUnread_cfg]
    · decide
    · exact h.queue
    · decide
    · exact h.phase
    · exact fun _ => by
        cases hx : s.cfg.cycleExact
        · rfl
        · exact absurd (Or.inr (Or.inl hx)) hshut

theorem beforeTx_receiverInv {s : State} (h : ReceiverInv s) : ReceiverInv (beforeTx s) :=
  rxOverrunTick_receiverInv _ ((polled_took s).receiverInv h)

theorem tickBody_receiverInv (lc : Nat) {s : State} (h : ReceiverInv s) : ReceiverInv (tickBody lc s) := by
  rw [tickBody_eq_parts]
  have htx := (txTick_frame s.side.now lc _).receiverInv (beforeTx_receiverInv h)
  exact (breakTxTick_frame _ _).receiverInv (rxBreakTick_receiverInv (tickRx_receiverInv lc _ _ htx))

/-! The other stimuli -/

theorem writeStatus_rx (dir val : Byte) (s : State) : (writeStatus dir val s).rx = s.rx := by
  unfold writeStatus
  simp only []
  split
  · rfl
  · unfold forwardLines
    split
    · split
      · rfl
      · rfl
    · rfl

theorem writePeriod_rx (w : Reg) (s : State) : (writePeriod w s).rx = s.rx := by
  rcases writePeriod_cases w s with h | h | ⟨-, h⟩ <;> rw [h]
  · rfl
  · exact (rescale_frame s.side.now (rateCount w + 1) (setPeriod w s)).rx

/-- No stimulus writes the parameters (R7). -/
theorem exec_par {i : Instr} {s t : State} (h : exec i s = .next t) : t.par = s.par := by
  by_cases hperiod : ∃ w, i = .wserper w
  · obtain ⟨w, rfl⟩ := hperiod
    cases h
    rcases writePeriod_cases w s with h | h | ⟨-, h⟩ <;> rw [h]
    · rfl
    · exact (rescale_frame s.side.now (rateCount w + 1) (setPeriod w s)).par
  by_cases hsession : i = .openSession ∨ i = .closeSession
  · exact (exec_sessionReset h hsession).par
  · obtain ⟨hopen, hclose⟩ := not_or.mp hsession
    exact (exec_keepsPeriod h (fun w hw => hperiod ⟨w, hw⟩) hopen hclose).par

theorem assertBreak_rx (s : State) : (assertBreak s).rx = s.rx := by
  rcases assertBreak_cases s with h | ⟨-, h⟩ | ⟨-, rem, h⟩ <;> rw [h]

theorem writeData_rx (w : Reg) (s : State) : (writeData w s).rx = s.rx := by
  have hheld : (held w s).rx = s.rx := by
    unfold held
    simp only []
    split
    · rfl
    · rfl
  rw [writeData_eq]
  split
  · rw [load_rx, hheld]
  · exact hheld

/-- What a stimulus other than the tick and the session's start and end can do to the receive group: the register is
read, the overrun is acknowledged, or an echo is delivered (R81, R82, R83). -/
theorem exec_rx_cases {i : Instr} {s t : State} (h : exec i s = .next t) (htick : ∀ lc, i ≠ .tick lc)
    (hopen : i ≠ .openSession) (hclose : i ≠ .closeSession) :
    t.rx = s.rx ∨ t.rx = { s.rx with rbf := false, unreadLines := 0 } ∨
      (i = .ackrbf ∧ t.rx = { s.rx with overrun := false }) ∨ ∃ w, t.rx = deliveredRx w s := by
  cases i <;> cases h
  case wserper w => exact Or.inl (writePeriod_rx w s)
  case wserdat w => exact Or.inl (writeData_rx w s)
  case rserdatr => exact Or.inr (Or.inl (readData_rx s))
  case rstatus dir cur => exact Or.inl (afterSource_rx s)
  case wstatus dir val => exact Or.inl (writeStatus_rx dir val s)
  case setbrk => exact Or.inl (assertBreak_rx s)
  case clrbrk => exact Or.inl rfl
  case ackrbf => exact Or.inr (Or.inr (Or.inl ⟨rfl, rfl⟩))
  case tick lc => exact absurd rfl (htick lc)
  case fireTxDone => exact Or.inl (fireTxDone_frame s).rx
  case fireLoopbackRx => exact (fireLoopback_rx s).imp id (fun hw => Or.inr (Or.inr hw))
  case openSession => exact absurd rfl hopen
  case closeSession => exact absurd rfl hclose

/-- The receive group after a delivery, whatever else the state holds. -/
theorem receiverInv_of_delivered {s t : State} (h : ReceiverInv s) {w : Reg} (hrx : t.rx = deliveredRx w s)
    (hpar : t.par = s.par) (hcfg : t.cfg = s.cfg) : ReceiverInv t := by
  have hframe := deliver_frame w s
  exact (deliver_receiverInv w h).of_eq (by rw [hrx, deliver_eq]) (by rw [hpar, hframe.par]) (by rw [hcfg, hframe.cfg])

/-- Every stimulus but `OPEN` and `CLOSE` keeps the receiver's invariant. -/
theorem exec_receiverInv {i : Instr} {s t : State} (h : exec i s = .next t) (hopen : i ≠ .openSession)
    (hclose : i ≠ .closeSession) (hinv : ReceiverInv s) : ReceiverInv t := by
  by_cases htick : ∃ lc, i = .tick lc
  · obtain ⟨lc, rfl⟩ := htick
    cases h
    exact tickBody_receiverInv lc hinv
  have hpar := exec_par h
  have hcfg := (exec_keepsSession h hopen hclose).cfg
  rcases exec_rx_cases h (fun lc hlc => htick ⟨lc, hlc⟩) hopen hclose with hrx | hrx | ⟨-, hrx⟩ | ⟨w, hrx⟩
  · exact hinv.of_eq hrx hpar hcfg
  · constructor <;> simp only [hrx, hpar, hcfg]
    · exact hinv.register
    · exact hinv.queue
    · decide
    · exact hinv.phase
    · exact hinv.overrunMode
  · constructor <;> simp only [hrx, hpar, hcfg]
    · exact hinv.register
    · exact hinv.queue
    · exact hinv.unread
    · exact hinv.phase
    · exact fun hfalse => nomatch hfalse
  · exact receiverInv_of_delivered hinv hrx hpar hcfg

end Sys2Proof.Machine

/-! The session, the periods and the break window (R21, R53, R59, R61, R67), and with them the whole invariant. -/

namespace Sys2Proof.Machine

/-- What is not the transmit pipeline's keeps the session's invariant: an internal transport loses no availability. -/
theorem OffTransmit.sessionInv {s t : State} (hf : OffTransmit s t) (h : SessionInv s) : SessionInv t where
  noneUnavailable ht := by
    rw [hf.transport] at ht
    rw [hf.internal (by rw [ht]; rfl)]
    exact h.noneUnavailable ht
  loopbackAvailable ht := by
    rw [hf.transport] at ht
    rw [hf.internal (by rw [ht]; rfl)]
    exact h.loopbackAvailable ht
  echoes := by rw [hf.tx, hf.transport]; exact h.echoes
  stallExternal := by rw [hf.tx, hf.transport]; exact h.stallExternal
  txPeriod := by rw [hf.baud]; exact h.txPeriod
  rxPeriod := by rw [hf.baud, hf.par]; exact h.rxPeriod
  window := by rw [hf.tx, hf.par]; exact h.window

/-- The invariant of the session where the session, the periods and the parameters stay: what is left to show is of the
transmit group. -/
theorem SessionInv.of_tx {s t : State} (h : SessionInv s) (hsession : t.session = s.session) (hbaud : t.baud = s.baud)
    (hpar : t.par = s.par) (echoes : t.tx.loopQueue ≠ [] → s.session.transport = .loopback)
    (stalled : t.tx.shiftState = .stalled → s.session.transport.external = true)
    (window : t.tx.breakTxCounter ≤ s.par.breakTxLines) : SessionInv t where
  noneUnavailable := by rw [hsession]; exact h.noneUnavailable
  loopbackAvailable := by rw [hsession]; exact h.loopbackAvailable
  echoes := by rw [hsession]; exact echoes
  stallExternal := by rw [hsession]; exact stalled
  txPeriod := by rw [hbaud]; exact h.txPeriod
  rxPeriod := by rw [hbaud, hpar]; exact h.rxPeriod
  window := by rw [hpar]; exact window

/-- An echo is queued on Loopback only (R59). -/
theorem load_sessionInv (t : Nat) {s : State} (h : SessionInv s) : SessionInv (load t s) := by
  refine h.of_tx (load_session t s) (load_baud t s) (load_par t s) (fun hq => ?_) ?_ ?_
  all_goals simp only [load_tx, loadTx] at *
  · by_contra hother
    exact hother (h.echoes (by simpa [hother] using hq))
  · simp
  · exact h.window

theorem finish_sessionInv (t : Nat) {s : State} (h : SessionInv s) : SessionInv (finish t s) := by
  cases hd : s.tx.dataPending with
  | false => rw [finish_idle t s hd]; exact h.of_tx rfl rfl rfl h.echoes (by simp [emptiedTx]) h.window
  | true =>
    rw [finish_loads t s hd]
    exact load_sessionInv t (h.of_tx rfl rfl rfl h.echoes (by simp [emptiedTx]) h.window)

/-- An external transport may lose its availability: the invariant binds that of None and Loopback only (R21). -/
theorem Asked.sessionInv {s r : State} (ha : Asked s r) (h : SessionInv s)
    (hext : s.session.transport.external = true) : SessionInv r where
  noneUnavailable ht := by rw [ha.transport] at ht; simp [ht, Transport.external] at hext
  loopbackAvailable ht := by rw [ha.transport] at ht; simp [ht, Transport.external] at hext
  echoes := by rw [ha.tx, ha.transport]; exact h.echoes
  stallExternal := by rw [ha.tx, ha.transport]; exact h.stallExternal
  txPeriod := by rw [ha.baud]; exact h.txPeriod
  rxPeriod := by rw [ha.baud, ha.par]; exact h.rxPeriod
  window := by rw [ha.tx, ha.par]; exact h.window

theorem complete_sessionInv (t : Nat) {s : State} (h : SessionInv s) : SessionInv (complete t s) := by
  rcases complete_cases t s with hc | ⟨hext, -, hc⟩ <;> rw [hc]
  · exact finish_sessionInv t h
  · obtain ⟨r, hr, he | he⟩ := tryEmit_cases t s <;> rw [he]
    · have hinv := hr.sessionInv h hext
      exact hinv.of_tx rfl rfl rfl hinv.echoes (fun _ => by rw [hr.transport]; exact hext) hinv.window
    · exact finish_sessionInv t (hr.sessionInv h hext)

theorem txTick_sessionInv (t lc : Nat) {s : State} (h : SessionInv s) : SessionInv (txTick t lc s) := by
  rcases txTick_cases t lc s with ⟨-, ht⟩ | ⟨-, -, -, -, ht⟩ | ⟨-, -, -, -, ht⟩ | ⟨-, -, ht⟩ <;> rw [ht]
  · exact complete_sessionInv t h
  · exact complete_sessionInv t (h.of_tx rfl rfl rfl h.echoes h.stallExternal h.window)
  · exact h.of_tx rfl rfl rfl h.echoes h.stallExternal h.window
  · exact h

/-- The break window only runs down (R69). -/
theorem breakTxTick_sessionInv (t : Nat) {s : State} (h : SessionInv s) : SessionInv (breakTxTick t s) := by
  have hwindow : (breakTxTick t s).tx.breakTxCounter ≤ s.par.breakTxLines := by
    rw [breakTxTick_counter]
    exact (Nat.sub_le _ _).trans h.window
  rcases breakTxTick_cases t s with ⟨-, ht⟩ | ⟨-, ht⟩ | ⟨-, -, ht⟩ | ⟨-, -, -, ht⟩ <;> rw [ht] at hwindow ⊢
  · exact h
  · exact h.of_tx rfl rfl rfl h.echoes h.stallExternal hwindow
  · exact h.of_tx rfl rfl rfl h.echoes h.stallExternal hwindow
  · exact h.of_tx rfl rfl rfl h.echoes h.stallExternal hwindow

theorem tickBody_sessionInv (lc : Nat) {s : State} (h : SessionInv s) : SessionInv (tickBody lc s) := by
  rw [tickBody_eq_parts]
  have htx := txTick_sessionInv s.side.now lc ((beforeTx_offTransmit s).sessionInv h)
  have hrx := (tickRx_offTransmit lc (countAfterOverrun (pollResult s).1 (polled s)) (pollResult s).2 _).sessionInv htx
  exact breakTxTick_sessionInv _ ((rxBreakTick_offTransmit _).sessionInv hrx)

/-- The periods that a write of the period derives (R53). -/
theorem setPeriod_sessionInv (w : Reg) {s : State} (h : SessionInv s) : SessionInv (setPeriod w s) where
  noneUnavailable := h.noneUnavailable
  loopbackAvailable := h.loopbackAvailable
  echoes := h.echoes
  stallExternal := h.stallExternal
  txPeriod := by
    show (rateCount w + 1) * frameBits (ninebit w) = _
    rw [rateCount_eq, frameBits_eq]
    rfl
  rxPeriod := rfl
  window := h.window

theorem writePeriod_sessionInv (w : Reg) {s : State} (h : SessionInv s) : SessionInv (writePeriod w s) := by
  rcases writePeriod_cases w s with ht | ht | ⟨-, ht⟩ <;> rw [ht]
  · exact h
  · exact setPeriod_sessionInv w h
  · have hset := setPeriod_sessionInv w h
    have hf := rescale_frame s.side.now (rateCount w + 1) (setPeriod w s)
    exact hset.of_tx hf.session hf.baud hf.par (by rw [hf.echoes]; exact hset.echoes)
      (by rw [hf.shiftState]; exact hset.stallExternal) (by rw [hf.window]; exact hset.window)

theorem held_sessionInv (w : Reg) {s : State} (h : SessionInv s) : SessionInv (held w s) := by
  have htx := held_tx w s
  have hkeeps := held_keepsPeriod w s
  refine h.of_tx ?_ hkeeps.baud hkeeps.par (by rw [htx]; exact h.echoes) (by rw [htx]; exact h.stallExternal)
    (by rw [htx]; exact h.window)
  unfold held
  simp only []
  split
  · rfl
  · rfl

theorem writeData_sessionInv (w : Reg) {s : State} (h : SessionInv s) : SessionInv (writeData w s) := by
  rw [writeData_eq]
  split
  · exact load_sessionInv _ (held_sessionInv w h)
  · exact held_sessionInv w h

theorem assertBreak_sessionInv {s : State} (h : SessionInv s) : SessionInv (assertBreak s) := by
  rcases assertBreak_cases s with ht | ⟨-, ht⟩ | ⟨-, rem, ht⟩ <;> rw [ht]
  · exact h
  · exact h.of_tx rfl rfl rfl h.echoes h.stallExternal h.window
  · exact h.of_tx rfl rfl rfl h.echoes h.stallExternal (le_refl _)

theorem fireTxDone_sessionInv {s : State} (h : SessionInv s) : SessionInv (fireTxDone s) := by
  rw [fireTxDone_eq]
  split
  · exact complete_sessionInv _ h
  · exact h

/-- The head of the queue is taken from it, so what remains was queued on Loopback too (R83). -/
theorem fireLoopback_sessionInv {s : State} (h : SessionInv s) : SessionInv (fireLoopback s) := by
  rcases fireLoopback_delivers s with ht | ⟨e, rest, history, hq, ht⟩ <;> rw [ht]
  · exact h
  · have hloop : s.session.transport = .loopback := h.echoes (by simp [hq])
    have hpop : SessionInv { s with tx := { s.tx with loopQueue := rest } } :=
      h.of_tx rfl rfl rfl (fun _ => hloop) h.stallExternal h.window
    have hdeliver := (deliver_offTransmit e.word _).sessionInv hpop
    exact hdeliver.of_tx rfl rfl rfl hdeliver.echoes hdeliver.stallExternal hdeliver.window

/-- Every stimulus but `OPEN` and `CLOSE` keeps the session's invariant. -/
theorem exec_sessionInv {i : Instr} {s t : State} (h : exec i s = .next t) (hopen : i ≠ .openSession)
    (hclose : i ≠ .closeSession) (hinv : SessionInv s) : SessionInv t := by
  cases i <;> cases h
  case wserper w => exact writePeriod_sessionInv w hinv
  case wserdat w => exact writeData_sessionInv w hinv
  case rserdatr => exact (readData_offTransmit s).sessionInv hinv
  case rstatus dir cur => exact (readStatus_offTransmit dir cur s).sessionInv hinv
  case wstatus dir val => exact (writeStatus_offTransmit dir val s).sessionInv hinv
  case setbrk => exact assertBreak_sessionInv hinv
  case clrbrk => exact hinv.of_tx rfl rfl rfl hinv.echoes hinv.stallExternal hinv.window
  case ackrbf => exact (acknowledge_offTransmit s).sessionInv hinv
  case tick lc => exact tickBody_sessionInv lc hinv
  case fireTxDone => exact fireTxDone_sessionInv hinv
  case fireLoopbackRx => exact fireLoopback_sessionInv hinv
  case openSession => exact absurd rfl hopen
  case closeSession => exact absurd rfl hclose

/-! The whole invariant -/

theorem SessionReset.inv {s t : State} (h : SessionReset s t) : Inv t := by
  refine inv_of_reset (by rw [h.baud, h.par]) h.tx h.rx (fun hnone => ?_) (fun hloop => ?_)
  · rw [← Bool.not_eq_true, h.available]
    exact fun hne => hne hnone
  · exact h.available.mpr (by simp [hloop])

/-- Every stimulus keeps the invariant: `OPEN` and `CLOSE` set it up, and the others keep each of its three parts. -/
theorem exec_inv {i : Instr} {s t : State} (h : exec i s = .next t) (hinv : Inv s) : Inv t := by
  by_cases hsession : i = .openSession ∨ i = .closeSession
  · exact (exec_sessionReset h hsession).inv
  · obtain ⟨hopen, hclose⟩ := not_or.mp hsession
    exact ⟨exec_shifterInv h hopen hclose hinv.shifter, exec_receiverInv h hopen hclose hinv.receiver,
      exec_sessionInv h hopen hclose hinv.session⟩

/-- Taking a stimulus writes nothing that the invariant reads (R37). -/
theorem takeStimulus_inv (st : Stimulus) (rest : List Stimulus) {s : State} (h : Inv s) :
    Inv (takeStimulus st rest s) where
  shifter := h.shifter.of_tx_eq rfl
  receiver := h.receiver.of_eq rfl rfl rfl
  session := h.session.of_tx rfl rfl rfl h.session.echoes h.session.stallExternal h.session.window

/-- Settles O8, from the invariant of each of the three parts under every stimulus. -/
theorem stepKeepsTheStateInvariant : Obligations.StepKeepsTheStateInvariant := by
  intro s t hinv hstep
  rcases step_cases hstep with rfl | ⟨st, rest, i, hexec⟩
  · exact hinv
  · exact exec_inv hexec (takeStimulus_inv st rest hinv)

end Sys2Proof.Machine

/-! The callbacks the host holds (R22): the deadline of the frame in the shifter, and that of the echo in flight. -/

namespace Sys2Proof.Machine

/-- What the two statements about callbacks read is the same in both states. -/
structure KeepsCallbacks (s t : State) : Prop where
  cycleExact : t.cfg.cycleExact = s.cfg.cycleExact
  gen : t.session.gen = s.session.gen
  shiftState : t.tx.shiftState = s.tx.shiftState
  window : t.tx.breakTxCounter = s.tx.breakTxCounter
  deadline : t.tx.txDoneAt = s.tx.txDoneAt
  echoes : t.tx.loopQueue = s.tx.loopQueue
  standing : ∀ k, lastSchedule k t.history = lastSchedule k s.history

theorem OffTransmit.keepsCallbacks {s t : State} (h : OffTransmit s t) : KeepsCallbacks s t :=
  ⟨by rw [h.cfg], h.gen, by rw [h.tx], by rw [h.tx], by rw [h.tx], by rw [h.tx], h.silent.lastSchedule⟩

theorem Asked.keepsCallbacks {s r : State} (h : Asked s r) : KeepsCallbacks s r :=
  ⟨by rw [h.cfg], h.gen, by rw [h.tx], by rw [h.tx], by rw [h.tx], by rw [h.tx], h.silent.lastSchedule⟩

theorem takeStimulus_keepsCallbacks (st : Stimulus) (rest : List Stimulus) (s : State) :
    KeepsCallbacks s (takeStimulus st rest s) := ⟨rfl, rfl, rfl, rfl, rfl, rfl, fun _ => rfl⟩

theorem setPeriod_keepsCallbacks (w : Reg) (s : State) : KeepsCallbacks s (setPeriod w s) := by
  refine ⟨rfl, rfl, rfl, rfl, rfl, rfl, Silent.lastSchedule ?_⟩
  refine ⟨[eventEntry s (.applyBaud (appliedRate s.par.baudTable w)), eventEntry s (.log .baudSet)], ?_, ?_⟩
  · simp [setPeriod, eventEntry]
  · simp [eventEntry, Entry.isSchedule]

theorem held_keepsCallbacks (w : Reg) (s : State) : KeepsCallbacks s (held w s) := by
  unfold held
  simp only []
  split
  · exact ⟨rfl, rfl, rfl, rfl, rfl, rfl, (Silent.emit (.log .holdingOverwritten) s rfl).lastSchedule⟩
  · exact ⟨rfl, rfl, rfl, rfl, rfl, rfl, fun _ => rfl⟩

theorem clearBreak_keepsCallbacks (s : State) : KeepsCallbacks s (clearBreak s) :=
  ⟨rfl, rfl, rfl, rfl, rfl, rfl, (Silent.emit (.log .breakOff) s rfl).lastSchedule⟩

/-- The callback of one kind that a `Schedule` makes stand (R22). -/
theorem lastSchedule_concat (k k' : CallbackKind) (old : List Entry) (now cycle gen : Nat) :
    lastSchedule k (old ++ [{ now := now, record := .event (.schedule k' cycle gen) }]) =
      if k' = k then some (cycle, gen) else lastSchedule k old := by
  rw [lastSchedule_append]
  by_cases h : k' = k <;> simp [lastSchedule, h]

theorem lastSchedule_schedule (k k' : CallbackKind) (cycle : Nat) (s : State) :
    lastSchedule k (schedule k' cycle s).history =
      if k' = k then some (cycle, s.session.gen) else lastSchedule k s.history :=
  lastSchedule_concat k k' s.history (now s) cycle s.session.gen

/-- The callback of its deadline stands after a load in cycle-exact mode outside a break window (R57). -/
theorem load_txDone (t : Nat) (s : State) (hexact : s.cfg.cycleExact = true) (hwindow : s.tx.breakTxCounter = 0) :
    lastSchedule .txDone (load t s).history = some (t + loadFrame s, s.session.gen) := by
  simp only [load_history, loadEvents, hexact, hwindow, and_self, if_true]
  rw [← List.append_assoc]
  exact (lastSchedule_concat .txDone .txDone _ _ _ _).trans (if_pos rfl)

/-- The callback of a first echo stands after its load, and that of an earlier echo stays (R59). -/
theorem load_loopbackRx (t : Nat) (s : State) :
    lastSchedule .loopbackRx (load t s).history =
      if s.session.transport = .loopback ∧ s.tx.loopQueue = [] then some ((loadEcho t s).due, s.session.gen)
      else lastSchedule .loopbackRx s.history := by
  rw [load_history, loadEvents, ← List.append_assoc, lastSchedule_append]
  have hdone : lastSchedule .loopbackRx (if s.cfg.cycleExact = true ∧ s.tx.breakTxCounter = 0 then
      [eventEntry s (.schedule .txDone (t + loadFrame s) s.session.gen)] else []) = none := by
    split <;> simp [lastSchedule, eventEntry]
  rw [hdone, Option.none_or, lastSchedule_append]
  split <;> simp [lastSchedule, eventEntry]

/-! The deadline of the frame in the shifter -/

theorem DeadlineScheduled.of_keeps {s t : State} (h : DeadlineScheduled s) (hk : KeepsCallbacks s t) :
    DeadlineScheduled t := by
  intro hexact hdraining hwindow
  rw [hk.standing, hk.deadline, hk.gen]
  exact h (hk.cycleExact ▸ hexact) (hk.shiftState ▸ hdraining) (hk.window ▸ hwindow)

theorem load_deadlineScheduled (t : Nat) (s : State) : DeadlineScheduled (load t s) := by
  intro hexact _ hwindow
  rw [load_cfg] at hexact
  have hopen : s.tx.breakTxCounter = 0 := by rw [load_tx] at hwindow; exact hwindow
  rw [load_txDone t s hexact hopen]
  simp [loadTx, hexact, hopen]

/-- The end of a frame leaves no frame, or a loaded one. -/
theorem finish_deadlineScheduled (t : Nat) (s : State) : DeadlineScheduled (finish t s) := by
  cases h : s.tx.dataPending with
  | false => rw [finish_idle t s h]; intro _ hdraining; cases hdraining
  | true => rw [finish_loads t s h]; exact load_deadlineScheduled t _

theorem complete_deadlineScheduled (t : Nat) (s : State) : DeadlineScheduled (complete t s) := by
  rcases complete_cases t s with hc | ⟨-, -, hc⟩ <;> rw [hc]
  · exact finish_deadlineScheduled t s
  · obtain ⟨r, -, he | he⟩ := tryEmit_cases t s <;> rw [he]
    · intro _ hdraining; cases hdraining
    · exact finish_deadlineScheduled t r

/-- In cycle-exact mode the tick's transmit part completes a stalled word or does nothing (R63). -/
theorem txTick_deadlineScheduled (t lc : Nat) {s : State} (h : DeadlineScheduled s) :
    DeadlineScheduled (txTick t lc s) := by
  rcases txTick_cases t lc s with ⟨-, ht⟩ | ⟨-, -, -, -, ht⟩ | ⟨-, hinexact, -, -, ht⟩ | ⟨-, -, ht⟩ <;> rw [ht]
  · exact complete_deadlineScheduled t s
  · exact complete_deadlineScheduled t _
  · intro hexact; simp [hinexact] at hexact
  · exact h

/-- The end of a break window schedules the deadline of a frozen frame anew (R69). -/
theorem breakTxTick_deadlineScheduled (t : Nat) {s : State} (h : DeadlineScheduled s) :
    DeadlineScheduled (breakTxTick t s) := by
  rcases breakTxTick_cases t s with ⟨-, ht⟩ | ⟨hlong, ht⟩ | ⟨-, hother, ht⟩ | ⟨-, -, -, ht⟩ <;> rw [ht]
  · exact h
  · intro _ _ hwindow
    exact absurd hwindow (Nat.sub_ne_zero_of_lt hlong)
  · exact fun hexact hdraining _ => absurd ⟨hexact, hdraining⟩ hother
  · intro _ _ _
    simp [lastSchedule_append, lastSchedule, eventEntry]

theorem tickBody_deadlineScheduled (lc : Nat) {s : State} (h : DeadlineScheduled s) :
    DeadlineScheduled (tickBody lc s) := by
  rw [tickBody_eq_parts]
  have htx := txTick_deadlineScheduled s.side.now lc (h.of_keeps (beforeTx_offTransmit s).keepsCallbacks)
  have hrx := htx.of_keeps (tickRx_offTransmit lc (countAfterOverrun (pollResult s).1 (polled s)) (pollResult s).2
    _).keepsCallbacks
  exact breakTxTick_deadlineScheduled _ (hrx.of_keeps (rxBreakTick_offTransmit _).keepsCallbacks)

/-- A rescale schedules the new deadline where the old one was live (R54). -/
theorem rescale_deadlineScheduled (t newBT : Nat) {s : State} (h : DeadlineScheduled s) :
    DeadlineScheduled (rescale t newBT s) := by
  unfold rescale
  split
  · exact h
  · intro hexact hdraining hwindow
    simp only [rescaleRemainder] at hexact hdraining hwindow ⊢
    split at hexact
    · next he =>
      split at hexact
      · next hframe =>
        simp only [he, hframe, if_true] at hwindow
        exact absurd hwindow hframe.ne'
      · next hframe =>
        simp only [he, hframe, if_true, if_false]
        exact (lastSchedule_schedule .txDone .txDone _ _).trans (if_pos rfl)
    · next he => exact absurd hexact he

theorem writePeriod_deadlineScheduled (w : Reg) {s : State} (h : DeadlineScheduled s) :
    DeadlineScheduled (writePeriod w s) := by
  have hset := h.of_keeps (setPeriod_keepsCallbacks w s)
  rcases writePeriod_cases w s with ht | ht | ⟨-, ht⟩ <;> rw [ht]
  · exact h
  · exact hset
  · exact rescale_deadlineScheduled _ _ hset

theorem writeData_deadlineScheduled (w : Reg) {s : State} (h : DeadlineScheduled s) :
    DeadlineScheduled (writeData w s) := by
  rw [writeData_eq]
  split
  · exact load_deadlineScheduled _ _
  · exact h.of_keeps (held_keepsCallbacks w s)

/-- A break window that begins suspends the deadline; one of no ticks leaves it (R67). -/
theorem assertBreak_deadlineScheduled {s : State} (h : DeadlineScheduled s) : DeadlineScheduled (assertBreak s) := by
  have hlog := (Silent.emit (.log .breakOn) s rfl).lastSchedule .txDone
  rcases assertBreak_cases s with ht | ⟨hwindow, ht⟩ | ⟨hclear, rem, ht⟩ <;> rw [ht]
  · exact h
  · exact fun _ _ hnone => absurd hnone hwindow.ne'
  · exact fun hexact hdraining _ => hlog.trans (h hexact hdraining hclear)

theorem fireTxDone_deadlineScheduled {s : State} (h : DeadlineScheduled s) : DeadlineScheduled (fireTxDone s) := by
  rw [fireTxDone_eq]
  split
  · exact complete_deadlineScheduled _ s
  · exact h

/-- The callback of the next echo is of the other kind (R83). -/
theorem fireLoopback_deadlineScheduled {s : State} (h : DeadlineScheduled s) : DeadlineScheduled (fireLoopback s) := by
  rcases fireLoopback_cases s with ht | ⟨e, rest, -, ht⟩ <;> rw [ht]
  · exact h
  · have hpop : DeadlineScheduled { s with tx := { s.tx with loopQueue := rest } } := h
    have hdeliver := hpop.of_keeps (deliver_offTransmit e.word _).keepsCallbacks
    rcases scheduleNextEcho_eq (deliver e.word { s with tx := { s.tx with loopQueue := rest } }) with
      hnext | ⟨e', rest', -, hnext⟩ <;> rw [hnext]
    · exact hdeliver
    · intro hexact hdraining hwindow
      rw [lastSchedule_schedule]
      exact hdeliver hexact hdraining hwindow

/-- A session that has just begun or ended has an empty shifter (R100, R101). -/
theorem deadlineScheduled_of_reset {s : State} (h : s.tx = .reset) : DeadlineScheduled s := by
  intro _ hdraining
  simp [h, Tx.reset] at hdraining

theorem exec_deadlineScheduled {i : Instr} {s t : State} (h : exec i s = .next t) (hs : DeadlineScheduled s) :
    DeadlineScheduled t := by
  cases i <;> cases h
  case wserper w => exact writePeriod_deadlineScheduled w hs
  case wserdat w => exact writeData_deadlineScheduled w hs
  case rserdatr => exact hs.of_keeps (readData_offTransmit s).keepsCallbacks
  case rstatus dir cur => exact hs.of_keeps (readStatus_offTransmit dir cur s).keepsCallbacks
  case wstatus dir val => exact hs.of_keeps (writeStatus_offTransmit dir val s).keepsCallbacks
  case setbrk => exact assertBreak_deadlineScheduled hs
  case clrbrk => exact hs.of_keeps (clearBreak_keepsCallbacks s)
  case ackrbf => exact hs.of_keeps (acknowledge_offTransmit s).keepsCallbacks
  case tick lc => exact tickBody_deadlineScheduled lc hs
  case fireTxDone => exact fireTxDone_deadlineScheduled hs
  case fireLoopbackRx => exact fireLoopback_deadlineScheduled hs
  case openSession => exact deadlineScheduled_of_reset (openBody_reset s).tx
  case closeSession => exact deadlineScheduled_of_reset (closeBody_reset s).tx

/-- Settles O10: every stimulus keeps the deadline scheduled. -/
theorem stepKeepsTheDeadlineScheduled : Obligations.StepKeepsTheDeadlineScheduled := by
  intro s t h hstep
  rcases step_cases hstep with rfl | ⟨st, rest, i, hexec⟩
  · exact h
  · exact exec_deadlineScheduled hexec (h.of_keeps (takeStimulus_keepsCallbacks st rest s))

/-! The echo in flight -/

/-- The echoes, the generation and the callback of their kind are all that the statement reads. -/
theorem EchoScheduled.of_eq {s t : State} (h : EchoScheduled s) (hq : t.tx.loopQueue = s.tx.loopQueue)
    (hgen : t.session.gen = s.session.gen)
    (hstanding : lastSchedule .loopbackRx t.history = lastSchedule .loopbackRx s.history) : EchoScheduled t := by
  intro e rest he
  rw [hstanding, hgen]
  exact h e rest (hq ▸ he)

theorem EchoScheduled.of_keeps {s t : State} (h : EchoScheduled s) (hk : KeepsCallbacks s t) : EchoScheduled t :=
  h.of_eq hk.echoes hk.gen (hk.standing _)

/-- A load schedules the callback of an echo that is alone in flight; behind another, that one's callback
stands (R59). -/
theorem load_echoScheduled (t : Nat) {s : State} (h : EchoScheduled s) : EchoScheduled (load t s) := by
  intro e rest he
  rw [load_loopbackRx, load_session]
  rw [load_tx] at he
  simp only [loadTx] at he
  by_cases hloop : s.session.transport = .loopback
  · cases hq : s.tx.loopQueue with
    | nil =>
      simp only [hloop, hq, if_true, List.nil_append, List.cons.injEq] at he
      refine ⟨(loadEcho t s).due, ?_, by simp [hloop]⟩
      rw [he.1]
    | cons e' rest' =>
      simp only [hloop, hq, if_true, List.cons_append, List.cons.injEq] at he
      obtain ⟨cycle, hdue, hstands⟩ := h e' rest' hq
      refine ⟨cycle, ?_, by simpa using hstands⟩
      rw [← he.1]
      exact hdue
  · simp only [hloop, if_false] at he
    obtain ⟨cycle, hdue, hstands⟩ := h e rest he
    exact ⟨cycle, hdue, by simpa [hloop] using hstands⟩

theorem finish_echoScheduled (t : Nat) {s : State} (h : EchoScheduled s) : EchoScheduled (finish t s) := by
  cases hd : s.tx.dataPending with
  | false => rw [finish_idle t s hd]; exact h.of_eq rfl rfl rfl
  | true => rw [finish_loads t s hd]; exact load_echoScheduled t (h.of_eq rfl rfl rfl)

theorem complete_echoScheduled (t : Nat) {s : State} (h : EchoScheduled s) : EchoScheduled (complete t s) := by
  rcases complete_cases t s with hc | ⟨-, -, hc⟩ <;> rw [hc]
  · exact finish_echoScheduled t h
  · obtain ⟨r, hr, he | he⟩ := tryEmit_cases t s <;> rw [he]
    · exact (h.of_keeps hr.keepsCallbacks).of_eq rfl rfl rfl
    · exact finish_echoScheduled t (h.of_keeps hr.keepsCallbacks)

theorem txTick_echoScheduled (t lc : Nat) {s : State} (h : EchoScheduled s) : EchoScheduled (txTick t lc s) := by
  rcases txTick_cases t lc s with ⟨-, ht⟩ | ⟨-, -, -, -, ht⟩ | ⟨-, -, -, -, ht⟩ | ⟨-, -, ht⟩ <;> rw [ht]
  · exact complete_echoScheduled t h
  · exact complete_echoScheduled t (h.of_eq rfl rfl rfl)
  · exact h.of_eq rfl rfl rfl
  · exact h

/-- What the break timer schedules is of the other kind (R69). -/
theorem breakTxTick_echoScheduled (t : Nat) {s : State} (h : EchoScheduled s) : EchoScheduled (breakTxTick t s) := by
  rcases breakTxTick_cases t s with ⟨-, ht⟩ | ⟨-, ht⟩ | ⟨-, -, ht⟩ | ⟨-, -, -, ht⟩ <;> rw [ht]
  · exact h
  · exact h.of_eq rfl rfl rfl
  · exact h.of_eq rfl rfl (by simp [lastSchedule_append, lastSchedule, eventEntry])
  · exact h.of_eq rfl rfl (by simp [lastSchedule_append, lastSchedule, eventEntry])

theorem tickBody_echoScheduled (lc : Nat) {s : State} (h : EchoScheduled s) : EchoScheduled (tickBody lc s) := by
  rw [tickBody_eq_parts]
  have htx := txTick_echoScheduled s.side.now lc (h.of_keeps (beforeTx_offTransmit s).keepsCallbacks)
  have hrx := htx.of_keeps (tickRx_offTransmit lc (countAfterOverrun (pollResult s).1 (polled s)) (pollResult s).2
    _).keepsCallbacks
  exact breakTxTick_echoScheduled _ (hrx.of_keeps (rxBreakTick_offTransmit _).keepsCallbacks)

/-- A rescale may move the deadline of the frame, not that of an echo: it was fixed at the load (R54, R59). -/
theorem rescale_echoScheduled (t newBT : Nat) {s : State} (h : EchoScheduled s) :
    EchoScheduled (rescale t newBT s) := by
  have hf := rescale_frame t newBT s
  refine h.of_eq hf.echoes (by rw [hf.session]) ?_
  unfold rescale rescaleRemainder
  split
  · rfl
  · split
    · split
      · rfl
      · exact (lastSchedule_schedule .loopbackRx .txDone _ _).trans (if_neg (by decide))
    · rfl

theorem writePeriod_echoScheduled (w : Reg) {s : State} (h : EchoScheduled s) : EchoScheduled (writePeriod w s) := by
  have hset := h.of_keeps (setPeriod_keepsCallbacks w s)
  rcases writePeriod_cases w s with ht | ht | ⟨-, ht⟩ <;> rw [ht]
  · exact h
  · exact hset
  · exact rescale_echoScheduled _ _ hset

theorem writeData_echoScheduled (w : Reg) {s : State} (h : EchoScheduled s) : EchoScheduled (writeData w s) := by
  have hheld := h.of_keeps (held_keepsCallbacks w s)
  rw [writeData_eq]
  split
  · exact load_echoScheduled _ hheld
  · exact hheld

theorem assertBreak_echoScheduled {s : State} (h : EchoScheduled s) : EchoScheduled (assertBreak s) := by
  have hlog := (Silent.emit (.log .breakOn) s rfl).lastSchedule .loopbackRx
  rcases assertBreak_cases s with ht | ⟨-, ht⟩ | ⟨-, rem, ht⟩ <;> rw [ht]
  · exact h
  · exact h.of_eq rfl rfl hlog
  · exact h.of_eq rfl rfl hlog

theorem fireTxDone_echoScheduled {s : State} (h : EchoScheduled s) : EchoScheduled (fireTxDone s) := by
  rw [fireTxDone_eq]
  split
  · exact complete_echoScheduled _ h
  · exact h

/-- The next echo's callback is scheduled at its due cycle, or at once when that has passed (R83). -/
theorem scheduleNextEcho_echoScheduled (s : State) : EchoScheduled (scheduleNextEcho s) := by
  unfold scheduleNextEcho
  split
  · next hnil => exact fun e rest he => by simp [hnil] at he
  · next e' rest' hcons =>
    intro e rest he
    have hhead : e' = e := by rw [schedule_tx, hcons] at he; cases he; rfl
    refine ⟨max e'.due (now s), hhead ▸ le_max_left _ _, ?_⟩
    rw [lastSchedule_schedule, if_pos rfl, schedule_session]

theorem fireLoopback_echoScheduled {s : State} (h : EchoScheduled s) : EchoScheduled (fireLoopback s) := by
  rcases fireLoopback_cases s with ht | ⟨e, rest, -, ht⟩ <;> rw [ht]
  · exact h
  · exact scheduleNextEcho_echoScheduled _

theorem echoScheduled_of_reset {s : State} (h : s.tx = .reset) : EchoScheduled s := by
  intro e rest he
  simp [h, Tx.reset] at he

theorem exec_echoScheduled {i : Instr} {s t : State} (h : exec i s = .next t) (hs : EchoScheduled s) :
    EchoScheduled t := by
  cases i <;> cases h
  case wserper w => exact writePeriod_echoScheduled w hs
  case wserdat w => exact writeData_echoScheduled w hs
  case rserdatr => exact hs.of_keeps (readData_offTransmit s).keepsCallbacks
  case rstatus dir cur => exact hs.of_keeps (readStatus_offTransmit dir cur s).keepsCallbacks
  case wstatus dir val => exact hs.of_keeps (writeStatus_offTransmit dir val s).keepsCallbacks
  case setbrk => exact assertBreak_echoScheduled hs
  case clrbrk => exact hs.of_keeps (clearBreak_keepsCallbacks s)
  case ackrbf => exact hs.of_keeps (acknowledge_offTransmit s).keepsCallbacks
  case tick lc => exact tickBody_echoScheduled lc hs
  case fireTxDone => exact fireTxDone_echoScheduled hs
  case fireLoopbackRx => exact fireLoopback_echoScheduled hs
  case openSession => exact echoScheduled_of_reset (openBody_reset s).tx
  case closeSession => exact echoScheduled_of_reset (closeBody_reset s).tx

/-- Settles O11: every stimulus keeps the callback of the echo in flight. -/
theorem stepKeepsTheEchoScheduled : Obligations.StepKeepsTheEchoScheduled := by
  intro s t h hstep
  rcases step_cases hstep with rfl | ⟨st, rest, i, hexec⟩
  · exact h
  · exact exec_echoScheduled hexec (h.of_keeps (takeStimulus_keepsCallbacks st rest s))

end Sys2Proof.Machine

/-! What a tick leaves after its overrun part, and the events a stimulus makes on the way (R27, R90). -/

namespace Sys2Proof.Machine

/-- The events stand among the entries made from `s` to `t`, at the stimulus of `s`. -/
def Emits (events : List Event) (s t : State) : Prop :=
  ∃ new, t.history = s.history ++ new ∧ ∀ e ∈ events, eventEntry s e ∈ new

theorem Emits.after {events : List Event} {s r t : State} (h : Emits events s r) (hg : Grows r t) :
    Emits events s t := by
  obtain ⟨a, ha, hmem⟩ := h
  obtain ⟨b, hb, -⟩ := hg
  exact ⟨a ++ b, by rw [hb, ha, List.append_assoc], fun e he => List.mem_append_left _ (hmem e he)⟩

theorem Emits.before {events : List Event} {s r t : State} (hg : Grows s r) (hside : r.side = s.side)
    (h : Emits events r t) : Emits events s t := by
  obtain ⟨a, ha, -⟩ := hg
  obtain ⟨b, hb, hmem⟩ := h
  have hentry : ∀ e, eventEntry r e = eventEntry s e := fun e => by simp [eventEntry, hside]
  exact ⟨a ++ b, by rw [hb, ha, List.append_assoc], fun e he => List.mem_append_right _ (hentry e ▸ hmem e he)⟩

theorem tickRx_grows (lc count : Nat) (brk : Bool) (s : State) : Grows s (tickRx lc count brk s) := by
  obtain ⟨n, hframe⟩ := tickRx_frame lc count brk s
  exact hframe.grows

theorem tickRx_side (lc count : Nat) (brk : Bool) (s : State) : (tickRx lc count brk s).side = s.side := by
  obtain ⟨n, hframe⟩ := tickRx_frame lc count brk s
  exact hframe.side

/-- The history grows in the parts of a tick after the transmit part (R90, steps 4 and 5). -/
theorem afterTx_grows (t lc count : Nat) (brk : Bool) (s : State) :
    Grows s (breakTxTick t (rxBreakTick (tickRx lc count brk s))) := by
  have hrx := (tickRx_grows lc count brk s).trans (tickRx_side lc count brk s) (rxBreakTick_frame _).grows
  exact hrx.trans ((rxBreakTick_frame _).side.trans (tickRx_side lc count brk s)) (breakTxTick_frame _ _).grows

end Sys2Proof.Machine

/-! The pending flag (R24, item 2): only the copy into the shifter clears it. -/

namespace Sys2Proof.Machine

/-- The word of the holding register has been copied into the shifter, with `IrqTBE` (R57). -/
structure Copied (s t : State) : Prop where
  draining : t.tx.shiftState = .draining
  shiftReg : t.tx.shiftReg = t.tx.holding
  raised : Emits [.irqTBE] s t

/-- If the pending flag is cleared on the way, then by a copy. -/
def ClearsByCopy (s t : State) : Prop := s.tx.dataPending = true → t.tx.dataPending = false → Copied s t

/-- Where the flag is kept there is nothing to show. -/
theorem ClearsByCopy.of_kept {s t : State} (h : s.tx.dataPending = true → t.tx.dataPending = true) :
    ClearsByCopy s t := fun hset hclear => by simp [h hset] at hclear

theorem load_copied (t : Nat) (s : State) : Copied s (load t s) where
  draining := by rw [load_tx]; rfl
  shiftReg := by rw [load_tx]; rfl
  raised := ⟨loadEvents t s, load_history t s, by simp [loadEvents]⟩

theorem finish_clearsByCopy (t : Nat) (s : State) : ClearsByCopy s (finish t s) := by
  intro hset _
  rw [finish_loads t s hset]
  have hload := load_copied t { s with tx := emptiedTx s }
  exact ⟨hload.draining, hload.shiftReg, hload.raised⟩

theorem complete_clearsByCopy (t : Nat) (s : State) : ClearsByCopy s (complete t s) := by
  rcases complete_cases t s with hc | ⟨-, -, hc⟩ <;> rw [hc]
  · exact finish_clearsByCopy t s
  · obtain ⟨r, hr, he | he⟩ := tryEmit_cases t s <;> rw [he]
    · exact .of_kept fun hset => by rw [stall_tx, hr.tx]; exact hset
    · intro hset hclear
      have hpending : r.tx.dataPending = true := by rw [hr.tx]; exact hset
      have hcopy := finish_clearsByCopy t r hpending hclear
      exact ⟨hcopy.draining, hcopy.shiftReg, .before hr.grows hr.side hcopy.raised⟩

theorem txTick_clearsByCopy (t lc : Nat) (s : State) : ClearsByCopy s (txTick t lc s) := by
  rcases txTick_cases t lc s with ⟨-, ht⟩ | ⟨-, -, -, -, ht⟩ | ⟨-, -, -, -, ht⟩ | ⟨-, -, ht⟩ <;> rw [ht]
  · exact complete_clearsByCopy t s
  · intro hset hclear
    have hcopy := complete_clearsByCopy t { s with tx := { s.tx with
      txAccum := s.tx.txAccum + lc - s.tx.txFrameCycles } } hset hclear
    exact ⟨hcopy.draining, hcopy.shiftReg, hcopy.raised⟩
  · exact .of_kept id
  · exact .of_kept id

/-- The break timer is no matter of the word in the shifter or the one that waits (R69). -/
theorem breakTxTick_keeps (t : Nat) (s : State) :
    (breakTxTick t s).tx.dataPending = s.tx.dataPending ∧ (breakTxTick t s).tx.shiftState = s.tx.shiftState ∧
      (breakTxTick t s).tx.shiftReg = s.tx.shiftReg ∧ (breakTxTick t s).tx.holding = s.tx.holding := by
  rcases breakTxTick_cases t s with ⟨-, h⟩ | ⟨-, h⟩ | ⟨-, -, h⟩ | ⟨-, -, -, h⟩ <;> rw [h] <;>
    exact ⟨rfl, rfl, rfl, rfl⟩

theorem tickBody_clearsByCopy (lc : Nat) (s : State) : ClearsByCopy s (tickBody lc s) := by
  rw [tickBody_eq_parts]
  intro hset hclear
  have hbefore := beforeTx_frame (pollResult s).1 s
  have hcopies := txTick_clearsByCopy s.side.now lc (beforeTx s)
  generalize hr : txTick s.side.now lc (beforeTx s) = r at *
  have htx := (rxBreakTick_frame (tickRx lc (countAfterOverrun (pollResult s).1 (polled s)) (pollResult s).2
    r)).tx.trans (tickRx_offTransmit lc _ _ r).tx
  obtain ⟨hpending, hstate, hreg, hholding⟩ := breakTxTick_keeps s.side.now
    (rxBreakTick (tickRx lc (countAfterOverrun (pollResult s).1 (polled s)) (pollResult s).2 r))
  rw [htx] at hpending hstate hreg hholding
  have hcopy := hcopies (by rw [show (beforeTx s).tx = s.tx from hbefore.tx]; exact hset)
    (by rw [← hpending]; exact hclear)
  refine ⟨hstate.trans hcopy.draining, by rw [hreg, hholding]; exact hcopy.shiftReg, ?_⟩
  exact (Emits.before hbefore.grows hbefore.side hcopy.raised).after (afterTx_grows _ lc _ _ r)

theorem writeData_clearsByCopy (w : Reg) (s : State) : ClearsByCopy s (writeData w s) := by
  rw [writeData_eq]
  have hheld : Grows s (held w s) ∧ (held w s).side = s.side := by
    unfold held
    simp only []
    split
    · exact ⟨⟨[eventEntry s (.log .holdingOverwritten)], rfl, by simp [eventEntry]⟩, rfl⟩
    · exact ⟨.refl s, rfl⟩
  split
  · intro _ _
    have hcopy := load_copied (now (held w s)) (held w s)
    exact ⟨hcopy.draining, hcopy.shiftReg, .before hheld.1 hheld.2 hcopy.raised⟩
  · exact .of_kept fun _ => by rw [held_tx]

theorem OffTransmit.clearsByCopy {s t : State} (h : OffTransmit s t) : ClearsByCopy s t :=
  .of_kept fun hset => by rw [h.tx]; exact hset

theorem fireTxDone_clearsByCopy (s : State) : ClearsByCopy s (fireTxDone s) := by
  rw [fireTxDone_eq]
  split
  · exact complete_clearsByCopy _ s
  · exact .of_kept id

theorem writePeriod_clearsByCopy (w : Reg) (s : State) : ClearsByCopy s (writePeriod w s) := by
  rcases writePeriod_cases w s with h | h | ⟨-, h⟩ <;> rw [h]
  · exact .of_kept id
  · exact .of_kept id
  · have hf := rescale_frame s.side.now (rateCount w + 1) (setPeriod w s)
    exact .of_kept fun hset => hf.dataPending.trans hset

theorem exec_clearsByCopy {i : Instr} {s t : State} (h : exec i s = .next t) (hopen : i ≠ .openSession)
    (hclose : i ≠ .closeSession) : ClearsByCopy s t := by
  cases i <;> cases h
  case wserper w => exact writePeriod_clearsByCopy w s
  case wserdat w => exact writeData_clearsByCopy w s
  case rserdatr => exact (readData_offTransmit s).clearsByCopy
  case rstatus dir cur => exact (readStatus_offTransmit dir cur s).clearsByCopy
  case wstatus dir val => exact (writeStatus_offTransmit dir val s).clearsByCopy
  case setbrk =>
    refine .of_kept fun hset => ?_
    rcases assertBreak_cases s with ht | ⟨-, ht⟩ | ⟨-, rem, ht⟩ <;> rw [ht] <;> exact hset
  case clrbrk => exact .of_kept id
  case ackrbf => exact (acknowledge_offTransmit s).clearsByCopy
  case tick lc => exact tickBody_clearsByCopy lc s
  case fireTxDone => exact fireTxDone_clearsByCopy s
  case fireLoopbackRx =>
    obtain ⟨echoes, htx⟩ := fireLoopback_tx s
    exact .of_kept fun hset => by rw [htx]; exact hset
  case openSession => exact absurd rfl hopen
  case closeSession => exact absurd rfl hclose

/-- Settles O17: where a stimulus clears the flag it copies the word. -/
theorem pendingClearsOnlyByALoad : Obligations.PendingClearsOnlyByALoad := by
  intro i s t h hopen hclose hset hclear
  obtain ⟨hdraining, hreg, new, hnew, hraised⟩ := exec_clearsByCopy h hopen hclose hset hclear
  exact ⟨hdraining, hreg, new, hnew, hraised .irqTBE (by simp)⟩

end Sys2Proof.Machine

/-! The overrun flag (R24, item 3; R80): only the overrun part of a tick sets it. -/

namespace Sys2Proof.Machine

/-- The taking of a word moves neither the break detector nor the overrun flag (R73, R79). -/
theorem takeWord_keepsDetector (count : Nat) (s : State) : KeepsDetector s.rx (takeWord count s).rx := by
  have hdeliver : ∀ w r, (deliver w r).rx = deliveredRx w r := fun w r => by rw [deliver_eq]
  rcases takeWord_cases count s with ⟨w, rest, -, -, h⟩ | ⟨r, hr, h | ⟨w, h⟩⟩ <;> rw [h]
  · rw [hdeliver]
    have hkept := deliveredRx_keepsDetector w { s with rx := { s.rx with receiveQueue := rest } }
    exact ⟨hkept.counter, hkept.delay, hkept.overrun⟩
  · rw [hr.rx]
    exact ⟨rfl, rfl, rfl⟩
  · have hkept := deliveredRx_keepsDetector w r
    rw [hr.rx] at hkept
    rw [hdeliver]
    exact ⟨hkept.counter, hkept.delay, hkept.overrun⟩

theorem rxStep_overrun (count : Nat) (brk : Bool) (s : State) : (rxStep count brk s).rx.overrun = s.rx.overrun := by
  unfold rxStep
  split
  · rfl
  · split
    · unfold detectingStep
      simp only []
      split
      · rfl
      · rfl
    · rw [(takeWord_keepsDetector count (if brk then detectBreak s else s)).overrun]
      split
      · rfl
      · rfl

theorem tickRx_overrun (lc count : Nat) (brk : Bool) (s : State) :
    (tickRx lc count brk s).rx.overrun = s.rx.overrun := by
  by_cases h : s.baud.rxPeriodCycles ≤ s.rx.rxAccum + lc
  · rw [tickRx_crossing lc count brk s h, rxStep_overrun]; rfl
  · rw [tickRx_waiting lc count brk s h]; rfl

theorem rxBreakTick_overrun (s : State) : (rxBreakTick s).rx.overrun = s.rx.overrun := by
  rcases rxBreakTick_cases s with ⟨-, h⟩ | ⟨-, h⟩ | ⟨-, h⟩ <;> rw [h]

theorem tickBody_overrun (lc : Nat) (s : State) : (tickBody lc s).rx.overrun = (beforeTx s).rx.overrun := by
  rw [tickBody_eq_parts, (breakTxTick_frame _ _).rx, rxBreakTick_overrun, tickRx_overrun, (txTick_frame _ _ _).rx]

theorem tickBody_grows_beforeTx (lc : Nat) (s : State) : Grows (beforeTx s) (tickBody lc s) := by
  have htx := txTick_frame s.side.now lc (beforeTx s)
  rw [tickBody_eq_parts]
  exact htx.grows.trans htx.side (afterTx_grows _ lc _ _ _)

/-- The conditions of R80 in a tick: outside cycle-exact mode, the register full with nothing that forces intake, data
waiting at an available backend, and 199 ticks of it before. -/
structure OverrunDue (s : State) : Prop where
  shut : ¬ GateOpen s
  external : s.session.transport.external = true
  available : s.session.available = true
  waiting : ∃ count brk, readAvailableAnswer s = .value (count, brk) ∧ 0 < count
  unread : 199 ≤ s.rx.unreadLines

theorem gateOpen_polled (s : State) : GateOpen (polled s) ↔ GateOpen s := by
  have htook := polled_took s
  simp only [GateOpen, polled_rx, htook.cfg, htook.transport]

/-- A forced overrun sets the flag, with the flush and the log (R80). -/
theorem forceOverrun_emits (s : State) : Emits [.flush, .log .overrun] s (forceOverrun s) := by
  rcases forceOverrun_cases s with ⟨-, h⟩ | ⟨-, h⟩ <;> rw [h] <;> exact ⟨_, rfl, by simp⟩

/-- The overrun part of a tick forces an overrun, or leaves the receive group but for the count of unread ticks. -/
theorem beforeTx_cases (s : State) :
    (∃ n, (beforeTx s).rx = { s.rx with unreadLines := n }) ∨
    (OverrunDue s ∧ Emits [.flush, .log .overrun] s (beforeTx s) ∧ (beforeTx s).rx = overrunRx s) := by
  unfold beforeTx
  rcases rxOverrunTick_cases (pollResult s).1 (polled s) with ⟨-, -, h⟩ | ⟨-, -, -, h⟩ | ⟨hcounts, hlast, -, h⟩ <;>
    rw [h]
  · exact Or.inl ⟨0, by rw [setUnread_rx, polled_rx]⟩
  · exact Or.inl ⟨_, by rw [setUnread_rx, polled_rx]⟩
  · obtain ⟨hshut, hcount⟩ := (overrunCounts_iff _ _).mp hcounts
    obtain ⟨hext, havail, hanswer⟩ := pollResult_pos hcount
    rw [polled_rx] at hlast
    refine Or.inr ⟨⟨(gateOpen_polled s).not.mp hshut, hext, havail, ⟨_, _, hanswer, hcount⟩, by omega⟩, ?_, ?_⟩
    · exact .before (polled_took s).frame.grows (polled_took s).side
        (forceOverrun_emits (setUnread ((polled s).rx.unreadLines + 1) (polled s)))
    · rw [forceOverrun_rx]
      simp [overrunRx, polled_rx]

/-- What the stimuli other than the tick do to the overrun flag: `ACKRBF` clears it (R82). -/
theorem exec_overrun {i : Instr} {s t : State} (h : exec i s = .next t) (htick : ∀ lc, i ≠ .tick lc)
    (hopen : i ≠ .openSession) (hclose : i ≠ .closeSession) :
    t.rx.overrun = s.rx.overrun ∨ (i = .ackrbf ∧ t.rx.overrun = false) := by
  rcases exec_rx_cases h htick hopen hclose with hrx | hrx | ⟨hack, hrx⟩ | ⟨w, hrx⟩ <;> rw [hrx]
  · exact Or.inl rfl
  · exact Or.inl rfl
  · exact Or.inr ⟨hack, rfl⟩
  · exact Or.inl (deliveredRx_keepsDetector w s).overrun

/-- Settles O18: a tick sets the flag by its overrun part, which never clears it; `exec_overrun` says what the other
stimuli do. -/
theorem overrunIsSetOnlyByATickOutsideCycleExact : Obligations.OverrunIsSetOnlyByATickOutsideCycleExact := by
  intro i s t h
  by_cases hsession : i = .openSession ∨ i = .closeSession
  · have hclear : t.rx.overrun = false := by rw [(exec_sessionReset h hsession).rx]; rfl
    exact ⟨fun _ hset => by simp [hclear] at hset, fun _ _ => Or.inr hsession⟩
  obtain ⟨hopen, hclose⟩ := not_or.mp hsession
  by_cases htick : ∃ lc, i = .tick lc
  · obtain ⟨lc, rfl⟩ := htick
    cases h
    rcases beforeTx_cases s with ⟨n, hrx⟩ | ⟨hdue, hemits, hrx⟩
    · have hkept : (tickBody lc s).rx.overrun = s.rx.overrun := by rw [tickBody_overrun, hrx]
      exact ⟨fun hclear hset => by simp [hkept, hclear] at hset, fun hset hclear => by simp [hkept, hset] at hclear⟩
    · have hset : (tickBody lc s).rx.overrun = true := by rw [tickBody_overrun, hrx]; rfl
      refine ⟨fun _ _ => ?_, fun _ hclear => by simp [hset] at hclear⟩
      obtain ⟨hshut, hext, havail, hwaiting, hunread⟩ := hdue
      simp only [GateOpen, not_or, Bool.not_eq_true, Bool.not_eq_false] at hshut
      obtain ⟨hrbf, hexact, hsafe, hforced, -, hdevice⟩ := hshut
      obtain ⟨new, hnew, hevents⟩ := hemits.after (tickBody_grows_beforeTx lc s)
      exact ⟨⟨lc, rfl⟩, hexact, hrbf, hsafe, hforced, hdevice, hext, havail, hwaiting, hunread, new, hnew,
        hevents .flush (by simp), hevents (.log .overrun) (by simp)⟩
  · rcases exec_overrun h (fun lc hlc => htick ⟨lc, hlc⟩) hopen hclose with hkept | ⟨hack, hclear⟩
    · exact ⟨fun hclear hset => by simp [hkept, hclear] at hset, fun hset hclear => by simp [hkept, hset] at hclear⟩
    · exact ⟨fun _ hset => by simp [hclear] at hset, fun _ _ => Or.inl hack⟩

end Sys2Proof.Machine

/-! The receive break counter (R19, R73, R74, R75): the parts of a tick that are not the receive step and its break
timer leave it alone, and make none of their outputs. -/

namespace Sys2Proof.Machine

/-- The entry is a log of the break detector (R103). -/
def Entry.isBreakLog (x : Entry) : Bool :=
  match x.record with
  | .event (.log .breakDetected) | .event (.log .breakHold) | .event (.log .breakClear) => true
  | _ => false

/-- The entry is a `T.read` call (R94). -/
def Entry.isRead (x : Entry) : Bool :=
  match x.record with
  | .call (.read _ _) => true
  | _ => false

/-- The entry is one that only the receive step and its break timer make in a tick. -/
def Entry.ofReceiver (x : Entry) : Bool := x.isBreakLog || x.isReceive || x.isRead

/-- What the other parts of a tick leave to the receive step. -/
structure LeavesReceiver (s t : State) : Prop where
  irq : t.irq = s.irq
  reads : t.script.reads = s.script.reads
  side : t.side = s.side
  history : MakesNo Entry.ofReceiver s t

theorem LeavesReceiver.refl (s : State) : LeavesReceiver s s := ⟨rfl, rfl, rfl, .refl s⟩

theorem LeavesReceiver.trans {s t u : State} (h1 : LeavesReceiver s t) (h2 : LeavesReceiver t u) :
    LeavesReceiver s u :=
  ⟨h2.irq.trans h1.irq, h2.reads.trans h1.reads, h2.side.trans h1.side, h1.history.trans h2.history⟩

theorem transportFailed_leavesReceiver (s : State) : LeavesReceiver s (transportFailed s) :=
  ⟨rfl, rfl, rfl, MakesNo.emit (.log .transportFailed) _ rfl⟩

/-! The transmit part -/

theorem load_leavesReceiver (t : Nat) (s : State) : LeavesReceiver s (load t s) := by
  refine ⟨load_irq t s, by rw [load_script], load_side t s, loadEvents t s, load_history t s, fun e he => ?_⟩
  unfold loadEvents at he
  split at he <;> split at he <;> simp [eventEntry] at he
  · rcases he with rfl | rfl | rfl <;> rfl
  · rcases he with rfl | rfl <;> rfl
  · rcases he with rfl | rfl <;> rfl
  · rw [he]; rfl

theorem finish_leavesReceiver (t : Nat) (s : State) : LeavesReceiver s (finish t s) := by
  cases h : s.tx.dataPending with
  | false => rw [finish_idle t s h]; exact ⟨rfl, rfl, rfl, .of_history_eq rfl⟩
  | true =>
    rw [finish_loads t s h]
    have hload := load_leavesReceiver t { s with tx := emptiedTx s }
    exact ⟨hload.irq, hload.reads, hload.side, hload.history⟩

theorem calledWriteAvailable_leavesReceiver (n : Nat) (s : State) : LeavesReceiver s (calledWriteAvailable n s) :=
  ⟨rfl, rfl, rfl, .called _ _ s rfl⟩

theorem calledWrite_leavesReceiver (bytes : List Byte) (s : State) : LeavesReceiver s (calledWrite bytes s) :=
  ⟨rfl, rfl, rfl, .called _ _ s rfl⟩

theorem stall_leavesReceiver (s : State) : LeavesReceiver s (stall s) := ⟨rfl, rfl, rfl, .of_history_eq rfl⟩

theorem wrote_leavesReceiver (rest : List Byte) (m : Nat) (s : State) : LeavesReceiver s (wrote rest m s) :=
  (calledWrite_leavesReceiver rest s).trans ⟨rfl, rfl, rfl, MakesNo.emit (.write rest m) _ rfl⟩

theorem writeRest_leavesReceiver (t : Nat) (rest : List Byte) (s : State) :
    LeavesReceiver s (writeRest t rest s) := by
  cases h : writeAnswer rest s with
  | failure =>
    rw [writeRest_failure t rest s h]
    exact (calledWrite_leavesReceiver rest s).trans
      ((transportFailed_leavesReceiver _).trans (finish_leavesReceiver t _))
  | value m =>
    rw [writeRest_value t rest m s h]
    split
    · exact (wrote_leavesReceiver rest m s).trans (stall_leavesReceiver _)
    · exact (wrote_leavesReceiver rest m s).trans (finish_leavesReceiver t _)

theorem tryEmit_leavesReceiver (t : Nat) (s : State) : LeavesReceiver s (tryEmit t s) := by
  unfold tryEmit
  simp only []
  refine (calledWriteAvailable_leavesReceiver (s.tx.emitBuf.drop s.tx.emitIdx).length s).trans ?_
  split
  · exact (transportFailed_leavesReceiver _).trans (finish_leavesReceiver t _)
  · exact stall_leavesReceiver _
  · exact writeRest_leavesReceiver t _ _

theorem complete_leavesReceiver (t : Nat) (s : State) : LeavesReceiver s (complete t s) := by
  rcases complete_cases t s with hc | ⟨-, -, hc⟩ <;> rw [hc]
  · exact finish_leavesReceiver t s
  · exact tryEmit_leavesReceiver t s

theorem txTick_leavesReceiver (t lc : Nat) (s : State) : LeavesReceiver s (txTick t lc s) := by
  rcases txTick_cases t lc s with ⟨-, ht⟩ | ⟨-, -, -, -, ht⟩ | ⟨-, -, -, -, ht⟩ | ⟨-, -, ht⟩ <;> rw [ht]
  · exact complete_leavesReceiver t s
  · have hc := complete_leavesReceiver t { s with tx := { s.tx with
      txAccum := s.tx.txAccum + lc - s.tx.txFrameCycles } }
    exact ⟨hc.irq, hc.reads, hc.side, hc.history⟩
  · exact ⟨rfl, rfl, rfl, .of_history_eq rfl⟩
  · exact .refl s

theorem breakTxTick_leavesReceiver (t : Nat) (s : State) : LeavesReceiver s (breakTxTick t s) := by
  rcases breakTxTick_cases t s with ⟨-, h⟩ | ⟨-, h⟩ | ⟨-, -, h⟩ | ⟨-, -, -, h⟩ <;> rw [h]
  · exact .refl s
  · exact ⟨rfl, rfl, rfl, .of_history_eq rfl⟩
  · exact ⟨rfl, rfl, rfl, _, rfl, by
      simp [eventEntry, Entry.ofReceiver, Entry.isBreakLog, Entry.isReceive, Entry.isRead]⟩
  · exact ⟨rfl, rfl, rfl, _, rfl, by
      simp [eventEntry, Entry.ofReceiver, Entry.isBreakLog, Entry.isReceive, Entry.isRead]⟩

/-! The poll and the overrun -/

theorem polled_leavesReceiver (s : State) : LeavesReceiver s (polled s) := by
  have hcall : LeavesReceiver s (calledReadAvailable s) := ⟨rfl, rfl, rfl, .called _ _ s rfl⟩
  unfold polled
  split
  · split
    · exact hcall.trans (transportFailed_leavesReceiver _)
    · exact hcall
  · exact .refl s

theorem setUnread_leavesReceiver (n : Nat) (s : State) : LeavesReceiver s (setUnread n s) :=
  ⟨rfl, rfl, rfl, .of_history_eq rfl⟩

theorem forceOverrun_leavesReceiver (s : State) : LeavesReceiver s (forceOverrun s) := by
  rcases forceOverrun_cases s with ⟨-, h⟩ | ⟨-, h⟩ <;> rw [h] <;>
    exact ⟨rfl, rfl, rfl, _, rfl, by
      simp [callEntry, eventEntry, Entry.ofReceiver, Entry.isBreakLog, Entry.isReceive, Entry.isRead]⟩

theorem beforeTx_leavesReceiver (s : State) : LeavesReceiver s (beforeTx s) := by
  refine (polled_leavesReceiver s).trans ?_
  unfold beforeTx
  rcases rxOverrunTick_cases (pollResult s).1 (polled s) with ⟨-, -, h⟩ | ⟨-, -, -, h⟩ | ⟨-, -, -, h⟩ <;> rw [h]
  · exact setUnread_leavesReceiver _ _
  · exact setUnread_leavesReceiver _ _
  · exact (setUnread_leavesReceiver _ _).trans (forceOverrun_leavesReceiver _)

/-- The poll reports a break in the statement's words (R96). -/
theorem pollResult_break_iff (s : State) : (pollResult s).2 = true ↔ BreakReported s := by
  unfold pollResult BreakReported
  by_cases hl : s.session.transport = .loopback
  · simp [hl, breakOut, Transport.external]
  · cases ha : pollAsks s with
    | false =>
      have hclosed : s.session.transport.external = true → ¬ s.session.available = true := by
        simpa [pollAsks] using ha
      simp only [hl, if_false, Bool.false_eq_true, false_and, false_or]
      exact (iff_of_false id fun ⟨hext, havail, _⟩ => hclosed hext havail)
    | true =>
      have hopen : s.session.transport.external = true ∧ s.session.available = true := by simpa [pollAsks] using ha
      cases hanswer : readAvailableAnswer s with
      | failure => simp [hl]
      | value x => obtain ⟨count, brk⟩ := x; simp [hl, hopen]

/-! The receive part: the receive step and its break timer -/

/-- The receive step of a tick with the break timer that follows it (R91, R75). -/
def receivePart (lc count : Nat) (brk : Bool) (s : State) : State := rxBreakTick (tickRx lc count brk s)

/-- What the receive part of a tick finds, against the state the tick began in: an overrun may have cleared the register
(R80). -/
structure BeforeReceive (s b : State) : Prop where
  leaves : LeavesReceiver s b
  baud : b.baud = s.baud
  par : b.par = s.par
  counter : b.rx.breakCounter = s.rx.breakCounter
  delay : b.rx.breakDelay = s.rx.breakDelay
  accum : b.rx.rxAccum = s.rx.rxAccum
  queue : b.rx.receiveQueue = s.rx.receiveQueue
  register : (b.rx.receiveReg = s.rx.receiveReg ∧ b.rx.rbf = s.rx.rbf) ∨
    (s.rx.rbf = true ∧ b.rx.rbf = false ∧ b.rx.receiveReg = 0 ∧ b.rx.overrun = true)

theorem OverrunDue.rbf {s : State} (h : OverrunDue s) : s.rx.rbf = true := by
  cases hrbf : s.rx.rbf
  · exact absurd (Or.inl hrbf) h.shut
  · rfl

theorem beforeReceive_txTick (t lc : Nat) (s : State) : BeforeReceive s (txTick t lc (beforeTx s)) := by
  have hbefore := beforeTx_frame (pollResult s).1 s
  have htx := txTick_frame t lc (beforeTx s)
  have hleaves := (beforeTx_leavesReceiver s).trans (txTick_leavesReceiver t lc _)
  have hbaud := htx.baud.trans hbefore.baud
  have hpar := htx.par.trans hbefore.par
  rcases beforeTx_cases s with ⟨n, hrx⟩ | ⟨hdue, -, hrx⟩
  · refine ⟨hleaves, hbaud, hpar, ?_, ?_, ?_, ?_, Or.inl ⟨?_, ?_⟩⟩ <;> rw [htx.rx, hrx]
  · refine ⟨hleaves, hbaud, hpar, ?_, ?_, ?_, ?_, Or.inr ⟨hdue.rbf, ?_, ?_, ?_⟩⟩ <;> rw [htx.rx, hrx] <;> rfl

/-- A tick is its receive part, with parts before and after it that leave the receiver to it (R90). -/
theorem tickBody_receivePart (lc : Nat) (s : State) : ∃ count b, BeforeReceive s b ∧
    LeavesReceiver (receivePart lc count (pollResult s).2 b) (tickBody lc s) ∧
    (tickBody lc s).rx = (receivePart lc count (pollResult s).2 b).rx := by
  rw [tickBody_eq_parts]
  exact ⟨_, _, beforeReceive_txTick s.side.now lc s, breakTxTick_leavesReceiver _ _, (breakTxTick_frame _ _).rx⟩

/-- In a hold the receive step does nothing, and the timer counts it down (R73, R75). -/
theorem receivePart_holding (lc count : Nat) (brk : Bool) {s : State} (h : 0 < s.rx.breakCounter) :
    receivePart lc count brk s = { s with
      rx := { s.rx with rxAccum := accumulatedTo lc s, breakCounter := s.rx.breakCounter - 1 }
      history := s.history ++ (if s.rx.breakCounter = 1 then [eventEntry s (.log .breakClear)] else []) } := by
  have hstep : tickRx lc count brk s = accumulated (accumulatedTo lc s) s := by
    by_cases hc : Crosses lc s
    · rw [tickRx_crossing lc count brk s hc, accumulatedTo, if_pos hc]
      exact if_pos h
    · rw [tickRx_waiting lc count brk s hc, accumulatedTo, if_neg hc]
  unfold receivePart
  rw [hstep]
  rcases rxBreakTick_cases (accumulated (accumulatedTo lc s) s) with ⟨hle, -⟩ | ⟨hlt, ht⟩ | ⟨hone, ht⟩
  · exact absurd h (not_lt.mpr hle)
  · rw [ht, if_neg (by simp only [accumulated] at hlt; omega), List.append_nil]
    rfl
  · have hs : s.rx.breakCounter = 1 := hone
    rw [ht, if_pos hs, hs]
    rfl

/-- The state in which a hold has begun, before the timer counts down its first tick (R74). -/
def holdBegun (lc : Nat) (s : State) : State := { s with
  rx := { s.rx with
    rxAccum := accumulatedTo lc s
    breakDelay := 0
    breakCounter := (s.par.breakRxLines : Int)
    rxPrefix := none }
  history := s.history ++ [eventEntry s (.log .breakHold)] }

/-- The receive step that ends detecting begins the hold (R73, R74). -/
theorem tickRx_detecting (lc count : Nat) (brk : Bool) {s : State} (h : s.rx.breakCounter = -1)
    (hdelay : s.rx.breakDelay = 1) (hc : Crosses lc s) : tickRx lc count brk s = holdBegun lc s := by
  rw [tickRx_crossing lc count brk s hc]
  have hstep : rxStep count brk (accumulated (s.rx.rxAccum + lc - s.baud.rxPeriodCycles) s) =
      detectingStep (accumulated (s.rx.rxAccum + lc - s.baud.rxPeriodCycles) s) := by
    simp [rxStep, accumulated, h]
  rw [hstep, holdBegun, accumulatedTo, if_pos hc]
  exact detectingStep_eq hdelay

/-- After that step the timer counts down the first tick of the hold (R74, R75). -/
theorem receivePart_detecting (lc count : Nat) (brk : Bool) {s : State} (h : s.rx.breakCounter = -1)
    (hdelay : s.rx.breakDelay = 1) (hc : Crosses lc s) :
    receivePart lc count brk s = { s with
      rx := { s.rx with
        rxAccum := accumulatedTo lc s
        breakDelay := 0
        breakCounter := ((s.par.breakRxLines - 1 : Nat) : Int)
        rxPrefix := none }
      history := s.history ++ ([eventEntry s (.log .breakHold)] ++
        if s.par.breakRxLines = 1 then [eventEntry s (.log .breakClear)] else []) } := by
  unfold receivePart
  rw [tickRx_detecting lc count brk h hdelay hc]
  rcases rxBreakTick_cases (holdBegun lc s) with ⟨hle, ht⟩ | ⟨hlt, ht⟩ | ⟨hone, ht⟩
  · have hnone : s.par.breakRxLines = 0 := by simp only [holdBegun] at hle; omega
    rw [ht]
    simp [holdBegun, hnone]
  · have hmany : 1 < s.par.breakRxLines := by simp only [holdBegun] at hlt; omega
    rw [ht, if_neg hmany.ne', Nat.cast_sub hmany.le]
    simp [holdBegun]
  · have hlast : s.par.breakRxLines = 1 := by simp only [holdBegun] at hone; omega
    rw [ht, if_pos hlast]
    simp [holdBegun, hlast, eventEntry]

/-- Without a receive step detecting goes on (R91). -/
theorem receivePart_waiting (lc count : Nat) (brk : Bool) {s : State} (h : s.rx.breakCounter ≤ 0)
    (hc : ¬ Crosses lc s) : receivePart lc count brk s = accumulated (accumulatedTo lc s) s := by
  unfold receivePart
  rw [tickRx_waiting lc count brk s hc, accumulatedTo, if_neg hc]
  exact rxBreakTick_idle _ h

/-! A clear receiver -/

theorem deliver_noBreakLog (w : Reg) (s : State) : MakesNo Entry.isBreakLog s (deliver w s) := by
  refine ⟨deliveredEvents s, by rw [deliver_eq], fun e he => ?_⟩
  unfold deliveredEvents at he
  split at he <;> split at he <;> simp_all [eventEntry, Entry.isBreakLog]

theorem calledRead_noBreakLog (k : Nat) (s : State) : MakesNo Entry.isBreakLog s (calledRead k s) :=
  .called _ _ s rfl

theorem transportFailed_noBreakLog (s : State) : MakesNo Entry.isBreakLog s (transportFailed s) :=
  MakesNo.emit (.log .transportFailed) _ rfl

theorem intake9Data_noBreakLog (n : Bool) (count : Nat) (s : State) :
    MakesNo Entry.isBreakLog s (intake9Data n count s) := by
  unfold intake9Data
  have hread := calledRead_noBreakLog 1 s
  split
  · exact .refl s
  · split
    · exact hread.trans (transportFailed_noBreakLog _)
    · exact hread
    · exact hread.trans (deliver_noBreakLog _ (setPrefix none (calledRead 1 s)))

theorem intake9_noBreakLog (count : Nat) (s : State) : MakesNo Entry.isBreakLog s (intake9 count s) := by
  unfold intake9
  split
  · exact intake9Data_noBreakLog _ count s
  · unfold intake9Prefix
    have hread := calledRead_noBreakLog 1 s
    split
    · exact .refl s
    · split
      · exact hread.trans (transportFailed_noBreakLog _)
      · exact hread
      · simp only []
        split
        · exact hread.trans (intake9Data_noBreakLog _ _ (setPrefix _ (calledRead 1 s)))
        · exact hread.trans (MakesNo.emit (.log .frameDesync) _ rfl)

theorem intake8_noBreakLog (count : Nat) (s : State) : MakesNo Entry.isBreakLog s (intake8 count s) := by
  unfold intake8
  simp only []
  have hread : MakesNo Entry.isBreakLog s (calledRead 1 (setPrefix none s)) :=
    calledRead_noBreakLog 1 (setPrefix none s)
  split
  · exact .of_history_eq rfl
  · split
    · exact hread.trans (transportFailed_noBreakLog _)
    · exact hread
    · unfold acceptByte
      split
      · exact hread
      · exact hread.trans (deliver_noBreakLog _ _)

theorem intakeFromTransport_noBreakLog (count : Nat) (s : State) :
    MakesNo Entry.isBreakLog s (intakeFromTransport count s) := by
  unfold intakeFromTransport
  split
  · exact .refl s
  · split
    · exact .refl s
    · split
      · exact intake9_noBreakLog count s
      · exact intake8_noBreakLog count s

/-- The taking of a word logs nothing of the break detector (R73). -/
theorem takeWord_noBreakLog (count : Nat) (s : State) : MakesNo Entry.isBreakLog s (takeWord count s) := by
  unfold takeWord
  split
  · exact intakeFromTransport_noBreakLog count s
  · split
    · exact intakeFromTransport_noBreakLog count s
    · exact deliver_noBreakLog _ { s with rx := { s.rx with receiveQueue := _ } }

/-- With a receive step and a break that the poll reports, a clear receiver goes to detecting (R73, R74). -/
theorem receivePart_detects (lc count : Nat) {s : State} (h : s.rx.breakCounter = 0) (hc : Crosses lc s) :
    (receivePart lc count true s).rx.breakCounter = -1 ∧ (receivePart lc count true s).rx.breakDelay = 1 ∧
      ∃ rest, (receivePart lc count true s).history = s.history ++ (eventEntry s (.log .breakDetected) :: rest) ∧
        ∀ e ∈ rest, e.isBreakLog = false := by
  have hstep : tickRx lc count true s = takeWord count (detectBreak (accumulated (accumulatedTo lc s) s)) := by
    rw [tickRx_crossing lc count true s hc, accumulatedTo, if_pos hc]
    simp [rxStep, accumulated, h]
  obtain ⟨hcounter, hdelay, -⟩ := takeWord_keepsDetector count (detectBreak (accumulated (accumulatedTo lc s) s))
  obtain ⟨rest, hrest, hno⟩ := takeWord_noBreakLog count (detectBreak (accumulated (accumulatedTo lc s) s))
  unfold receivePart
  rw [hstep, rxBreakTick_idle _ (by rw [hcounter]; exact Int.negSucc_le_zero 0)]
  refine ⟨hcounter, hdelay, rest, ?_, hno⟩
  rw [hrest, List.append_cons]
  rfl

/-- A clear receiver stays clear where no receive step comes or the poll reports no break (R73, R74). -/
theorem receivePart_undetected (lc count : Nat) {brk : Bool} {s : State} (h : s.rx.breakCounter = 0)
    (hnone : ¬ (Crosses lc s ∧ brk = true)) :
    (receivePart lc count brk s).rx.breakCounter = 0 ∧ MakesNo Entry.isBreakLog s (receivePart lc count brk s) := by
  by_cases hc : Crosses lc s
  · have hbrk : brk = false := by simpa [hc] using hnone
    have hstep : tickRx lc count brk s = takeWord count (accumulated (accumulatedTo lc s) s) := by
      rw [tickRx_crossing lc count brk s hc, accumulatedTo, if_pos hc]
      simp [rxStep, accumulated, h, hbrk]
    obtain ⟨hcounter, -, -⟩ := takeWord_keepsDetector count (accumulated (accumulatedTo lc s) s)
    have hclear := hcounter.trans h
    unfold receivePart
    rw [hstep, rxBreakTick_idle _ hclear.le]
    exact ⟨hclear, takeWord_noBreakLog count _⟩
  · rw [receivePart_waiting lc count brk h.le hc]
    exact ⟨h, .of_history_eq rfl⟩

end Sys2Proof.Machine

/-! A tick against the break counter: its logs are those of its receive part, and while the counter is not clear nothing
is taken (R73, R74, R75). -/

namespace Sys2Proof.Machine

/-- Of the break detector's logs, the entries hold exactly those in `logs`, at the stimulus of `s`. -/
def BreakLogsAre (s : State) (logs : List LogReason) (new : List Entry) : Prop :=
  ∀ r, (eventEntry s (.log r)).isBreakLog = true → (eventEntry s (.log r) ∈ new ↔ r ∈ logs)

/-- From `s` to `t` no byte was taken: the queue, the interrupts and the reads lined up are as they were, and the
register has at most lost its word to an overrun (R80). -/
structure TakesNothing (s t : State) (new : List Entry) : Prop where
  queue : t.rx.receiveQueue = s.rx.receiveQueue
  irq : t.irq = s.irq
  reads : t.script.reads = s.script.reads
  register : (t.rx.receiveReg = s.rx.receiveReg ∧ t.rx.rbf = s.rx.rbf) ∨
    (s.rx.rbf = true ∧ t.rx.rbf = false ∧ t.rx.receiveReg = 0 ∧ t.rx.overrun = true)
  entries : ∀ e ∈ new, e.record ≠ .event .irqRBF ∧ ∀ k a, e.record ≠ .call (.read k a)

/-- Around the receive part of a tick nothing is added to its outputs. -/
theorem receiver_entries {s b r t : State} (hbefore : LeavesReceiver s b) (hafter : LeavesReceiver r t)
    {made : List Entry} (hmade : r.history = b.history ++ made) :
    ∃ new, t.history = s.history ++ new ∧ ∀ x, x.ofReceiver = true → (x ∈ new ↔ x ∈ made) := by
  obtain ⟨first, hfirst, hnone⟩ := hbefore.history
  obtain ⟨last, hlast, hnone'⟩ := hafter.history
  refine ⟨first ++ made ++ last, by rw [hlast, hmade, hfirst]; simp, fun x hx => ?_⟩
  have h1 : x ∉ first := fun hmem => by simp [hnone x hmem] at hx
  have h2 : x ∉ last := fun hmem => by simp [hnone' x hmem] at hx
  simp [h1, h2]

theorem ofReceiver_of_isBreakLog {x : Entry} (h : x.isBreakLog = true) : x.ofReceiver = true := by
  simp [Entry.ofReceiver, h]

/-- The receive part of a tick has only moved the counter, with the logs `logs` of the break detector. -/
structure OnlyCounts (logs : List LogReason) (b r : State) : Prop where
  queue : r.rx.receiveQueue = b.rx.receiveQueue
  irq : r.irq = b.irq
  script : r.script = b.script
  receiveReg : r.rx.receiveReg = b.rx.receiveReg
  rbf : r.rx.rbf = b.rx.rbf
  overrun : r.rx.overrun = b.rx.overrun
  history : r.history = b.history ++ logs.map (fun l => eventEntry b (.log l))
  breakLogs : ∀ l ∈ logs, (eventEntry b (.log l)).isBreakLog = true

/-- A tick whose receive part only counts takes nothing, and logs of the break detector what that part logs. -/
theorem OnlyCounts.tick {logs : List LogReason} {s b r t : State} (h : OnlyCounts logs b r) (hb : BeforeReceive s b)
    (hafter : LeavesReceiver r t) (hrx : t.rx = r.rx) :
    ∃ new, t.history = s.history ++ new ∧ BreakLogsAre s logs new ∧ TakesNothing s t new := by
  have hentry : ∀ e, eventEntry b e = eventEntry s e := fun e => by simp [eventEntry, hb.leaves.side]
  obtain ⟨new, hnew, hmade⟩ := receiver_entries hb.leaves hafter h.history
  have hbreak : ∀ x ∈ new, x.ofReceiver = true → x.isBreakLog = true := fun x hx hof => by
    obtain ⟨l, hl, rfl⟩ := List.mem_map.mp ((hmade x hof).mp hx)
    exact h.breakLogs l hl
  refine ⟨new, hnew, fun l hl => ?_, ?_, ?_, ?_, ?_, fun e he => ⟨fun hrec => ?_, fun k a hrec => ?_⟩⟩
  · rw [hmade _ (ofReceiver_of_isBreakLog hl)]
    simp [eventEntry, hb.leaves.side]
  · rw [hrx, h.queue, hb.queue]
  · rw [hafter.irq, h.irq, hb.leaves.irq]
  · rw [hafter.reads, h.script, hb.leaves.reads]
  · rw [hrx, h.receiveReg, h.rbf, h.overrun]
    exact hb.register
  · have hlog := hbreak e he (by simp [Entry.ofReceiver, Entry.isReceive, hrec])
    simp [Entry.isBreakLog, hrec] at hlog
  · have hlog := hbreak e he (by simp [Entry.ofReceiver, Entry.isRead, hrec])
    simp [Entry.isBreakLog, hrec] at hlog

theorem BeforeReceive.crosses_iff {s b : State} (h : BeforeReceive s b) (lc : Nat) : Crosses lc b ↔ Crosses lc s := by
  simp only [Crosses, h.baud, h.accum]

/-- A clear receiver, a receive step, and a break that the poll reports: detecting begins (R73, R74). -/
theorem tickBody_detects (lc : Nat) {s : State} (h : s.rx.breakCounter = 0) (hc : Crosses lc s)
    (hbreak : BreakReported s) :
    (tickBody lc s).rx.breakCounter = -1 ∧ (tickBody lc s).rx.breakDelay = 1 ∧
      ∃ new, (tickBody lc s).history = s.history ++ new ∧ BreakLogsAre s [.breakDetected] new := by
  obtain ⟨count, b, hb, hafter, hrx⟩ := tickBody_receivePart lc s
  rw [(pollResult_break_iff s).mpr hbreak] at hafter hrx
  obtain ⟨hcounter, hdelay, rest, hrest, hno⟩ :=
    receivePart_detects lc count (hb.counter.trans h) ((hb.crosses_iff lc).mpr hc)
  obtain ⟨new, hnew, hmade⟩ := receiver_entries hb.leaves hafter hrest
  refine ⟨by rw [hrx, hcounter], by rw [hrx, hdelay], new, hnew, fun l hl => ?_⟩
  have hnot : eventEntry s (.log l) ∉ rest := fun hmem => by simp [hno _ hmem] at hl
  rw [hmade _ (ofReceiver_of_isBreakLog hl)]
  simp only [List.mem_cons, hnot, or_false, List.not_mem_nil]
  simp [eventEntry, hb.leaves.side]

/-- In any other tick a clear receiver stays clear (R73). -/
theorem tickBody_staysClear (lc : Nat) {s : State} (h : s.rx.breakCounter = 0)
    (hnone : ¬ (Crosses lc s ∧ BreakReported s)) :
    (tickBody lc s).rx.breakCounter = 0 ∧
      ∃ new, (tickBody lc s).history = s.history ++ new ∧ BreakLogsAre s [] new := by
  obtain ⟨count, b, hb, hafter, hrx⟩ := tickBody_receivePart lc s
  obtain ⟨hcounter, made, hmade, hno⟩ := receivePart_undetected lc count (brk := (pollResult s).2) (hb.counter.trans h)
    (by rw [hb.crosses_iff, pollResult_break_iff]; exact hnone)
  obtain ⟨new, hnew, hin⟩ := receiver_entries hb.leaves hafter hmade
  refine ⟨by rw [hrx, hcounter], new, hnew, fun l hl => ?_⟩
  rw [hin _ (ofReceiver_of_isBreakLog hl)]
  exact iff_of_false (fun hmem => by simp [hno _ hmem] at hl) (List.not_mem_nil)

/-- The receive step that ends detecting begins the hold, of which this tick is the first (R74, R75). -/
theorem tickBody_holds (lc : Nat) {s : State} (h : s.rx.breakCounter = -1) (hdelay : s.rx.breakDelay = 1)
    (hc : Crosses lc s) :
    (tickBody lc s).rx.breakCounter = ((s.par.breakRxLines - 1 : Nat) : Int) ∧ (tickBody lc s).rx.breakDelay = 0 ∧
      (tickBody lc s).rx.rxPrefix = none ∧
      ∃ new, (tickBody lc s).history = s.history ++ new ∧
        BreakLogsAre s (if s.par.breakRxLines = 1 then [.breakHold, .breakClear] else [.breakHold]) new ∧
        TakesNothing s (tickBody lc s) new := by
  obtain ⟨count, b, hb, hafter, hrx⟩ := tickBody_receivePart lc s
  have hpart := receivePart_detecting lc count (pollResult s).2 (hb.counter.trans h) (hb.delay.trans hdelay)
    ((hb.crosses_iff lc).mpr hc)
  rw [hb.par] at hpart
  have honly : OnlyCounts (if s.par.breakRxLines = 1 then [.breakHold, .breakClear] else [.breakHold]) b
      (receivePart lc count (pollResult s).2 b) := by
    rw [hpart]
    refine ⟨rfl, rfl, rfl, rfl, rfl, rfl, ?_, ?_⟩
    · split <;> simp
    · split <;> simp [eventEntry, Entry.isBreakLog]
  refine ⟨by rw [hrx, hpart], by rw [hrx, hpart], by rw [hrx, hpart], honly.tick hb hafter hrx⟩

/-- Without a receive step detecting goes on (R91). -/
theorem tickBody_waits (lc : Nat) {s : State} (h : s.rx.breakCounter = -1) (hdelay : s.rx.breakDelay = 1)
    (hc : ¬ Crosses lc s) :
    (tickBody lc s).rx.breakCounter = -1 ∧ (tickBody lc s).rx.breakDelay = 1 ∧
      ∃ new, (tickBody lc s).history = s.history ++ new ∧ BreakLogsAre s [] new ∧
        TakesNothing s (tickBody lc s) new := by
  obtain ⟨count, b, hb, hafter, hrx⟩ := tickBody_receivePart lc s
  have hpart := receivePart_waiting lc count (pollResult s).2 (s := b)
    (by rw [hb.counter, h]; exact Int.negSucc_le_zero 0) (fun hcross => hc ((hb.crosses_iff lc).mp hcross))
  have honly : OnlyCounts [] b (receivePart lc count (pollResult s).2 b) := by
    rw [hpart]
    exact ⟨rfl, rfl, rfl, rfl, rfl, rfl, by simp [accumulated], by simp⟩
  refine ⟨?_, ?_, honly.tick hb hafter hrx⟩
  · rw [hrx, hpart]; exact hb.counter.trans h
  · rw [hrx, hpart]; exact hb.delay.trans hdelay

/-- A hold counts down by one a tick (R75). -/
theorem tickBody_countsDown (lc : Nat) {s : State} (h : 0 < s.rx.breakCounter) :
    (tickBody lc s).rx.breakCounter = s.rx.breakCounter - 1 ∧
      ∃ new, (tickBody lc s).history = s.history ++ new ∧
        BreakLogsAre s (if s.rx.breakCounter = 1 then [.breakClear] else []) new ∧
        TakesNothing s (tickBody lc s) new := by
  obtain ⟨count, b, hb, hafter, hrx⟩ := tickBody_receivePart lc s
  have hpart := receivePart_holding lc count (pollResult s).2 (s := b) (by rw [hb.counter]; exact h)
  rw [hb.counter] at hpart
  have honly : OnlyCounts (if s.rx.breakCounter = 1 then [.breakClear] else []) b
      (receivePart lc count (pollResult s).2 b) := by
    rw [hpart]
    refine ⟨rfl, rfl, rfl, rfl, rfl, rfl, ?_, ?_⟩
    · split <;> simp
    · split <;> simp [eventEntry, Entry.isBreakLog]
  exact ⟨by rw [hrx, hpart], honly.tick hb hafter hrx⟩

/-- Every stimulus but the tick, `OPEN` and `CLOSE` leaves the break detector alone (R73). -/
theorem exec_keepsBreakCounter {i : Instr} {s t : State} (h : exec i s = .next t) (htick : ∀ lc, i ≠ .tick lc)
    (hopen : i ≠ .openSession) (hclose : i ≠ .closeSession) :
    t.rx.breakCounter = s.rx.breakCounter ∧ t.rx.breakDelay = s.rx.breakDelay := by
  rcases exec_rx_cases h htick hopen hclose with hrx | hrx | ⟨-, hrx⟩ | ⟨w, hrx⟩ <;> rw [hrx]
  · exact ⟨rfl, rfl⟩
  · exact ⟨rfl, rfl⟩
  · exact ⟨rfl, rfl⟩
  · have hkept := deliveredRx_keepsDetector w s
    exact ⟨hkept.counter, hkept.delay⟩

/-- Settles O47, by the phase the tick begins in: clear, detecting or holding. -/
theorem breakCounterMovesThroughDetectHoldClear : Obligations.BreakCounterMovesThroughDetectHoldClear := by
  intro i s t hinv h hopen hclose
  refine ⟨fun htick => exec_keepsBreakCounter h htick hopen hclose, ?_⟩
  rintro lc rfl
  cases h
  rcases hinv.phase with ⟨hneg, hdelay⟩ | ⟨hnonneg, -, -⟩
  · have hne : s.rx.breakCounter ≠ 0 := by omega
    have hnpos : ¬ 0 < s.rx.breakCounter := by omega
    by_cases hc : Crosses lc s
    · obtain ⟨hcounter, hdelay', hforgot, new, hnew, hlogs, hnothing⟩ := tickBody_holds lc hneg hdelay hc
      refine ⟨new, hnew, fun h0 => absurd h0 hne,
        fun _ => ⟨fun _ => ⟨hcounter, hdelay', hforgot⟩, fun hn => absurd hc hn⟩, fun hp => absurd hp hnpos, ?_, ?_, ?_,
        fun _ => ⟨hnothing.queue, hnothing.irq, hnothing.reads, hnothing.register, hnothing.entries⟩⟩
      · rw [hlogs _ rfl]; split <;> simp [hneg]
      · rw [hlogs _ rfl]; split <;> simp [hneg, hc]
      · rw [hlogs _ rfl]; split <;> simp_all
    · obtain ⟨hcounter, hdelay', new, hnew, hlogs, hnothing⟩ := tickBody_waits lc hneg hdelay hc
      refine ⟨new, hnew, fun h0 => absurd h0 hne, fun _ => ⟨fun hyes => absurd hyes hc, fun _ => ⟨hcounter, hdelay'⟩⟩,
        fun hp => absurd hp hnpos, ?_, ?_, ?_,
        fun _ => ⟨hnothing.queue, hnothing.irq, hnothing.reads, hnothing.register, hnothing.entries⟩⟩
      · rw [hlogs _ rfl]; simp [hneg]
      · rw [hlogs _ rfl]; simp [hc]
      · rw [hlogs _ rfl]; simp [hneg, hc]
  have hnneg : ¬ s.rx.breakCounter < 0 := by omega
  rcases hnonneg.eq_or_lt with hclear | hpos
  · have hzero := hclear.symm
    have hnpos : ¬ 0 < s.rx.breakCounter := by omega
    by_cases hd : Crosses lc s ∧ BreakReported s
    · obtain ⟨hcounter, hdelay, new, hnew, hlogs⟩ := tickBody_detects lc hzero hd.1 hd.2
      refine ⟨new, hnew, fun _ => ⟨fun _ => ⟨hcounter, hdelay⟩, fun hn => absurd hd hn⟩, fun hn => absurd hn hnneg,
        fun hp => absurd hp hnpos, ?_, ?_, ?_, fun hn => absurd hzero hn⟩
      · rw [hlogs _ rfl]; simp [hzero, hd]
      · rw [hlogs _ rfl]; simp [hzero]
      · rw [hlogs _ rfl]; simp [hzero]
    · obtain ⟨hcounter, new, hnew, hlogs⟩ := tickBody_staysClear lc hzero hd
      refine ⟨new, hnew, fun _ => ⟨fun hyes => absurd hyes hd, fun _ => hcounter⟩, fun hn => absurd hn hnneg,
        fun hp => absurd hp hnpos, ?_, ?_, ?_, fun hn => absurd hzero hn⟩
      · rw [hlogs _ rfl]; simpa [hzero] using hd
      · rw [hlogs _ rfl]; simp [hzero]
      · rw [hlogs _ rfl]; simp [hzero]
  · obtain ⟨hcounter, new, hnew, hlogs, hnothing⟩ := tickBody_countsDown lc hpos
    refine ⟨new, hnew, fun h0 => absurd h0 hpos.ne', fun hn => absurd hn hnneg, fun _ => hcounter, ?_, ?_, ?_,
      fun _ => ⟨hnothing.queue, hnothing.irq, hnothing.reads, hnothing.register, hnothing.entries⟩⟩
    · rw [hlogs _ rfl]; split <;> simp [hpos.ne']
    · rw [hlogs _ rfl]; split <;> simp [hpos.le]
    · rw [hlogs _ rfl]; split <;> simp_all [hpos.le]

end Sys2Proof.Machine

/-! Outputs and inputs (R27, R32): every operation appends to the outputs, and none writes the host's stream, the side
band or the parameters. -/

namespace Sys2Proof.Machine

/-- From `s` to `t` the history has grown by entries of the stimulus of `s`, values may have been returned, and what the
host supplies is as it was. -/
structure AppendsOnly (s t : State) : Prop where
  grows : Grows s t
  returned : s.returned <+: t.returned
  par : t.par = s.par
  side : t.side = s.side
  pending : t.pending = s.pending
  stimIndex : t.stimIndex = s.stimIndex

theorem AppendsOnly.refl (s : State) : AppendsOnly s s := ⟨.refl s, List.prefix_rfl, rfl, rfl, rfl, rfl⟩

theorem AppendsOnly.trans {s t u : State} (h1 : AppendsOnly s t) (h2 : AppendsOnly t u) : AppendsOnly s u where
  grows := h1.grows.trans h1.side h2.grows
  returned := h1.returned.trans h2.returned
  par := h2.par.trans h1.par
  side := h2.side.trans h1.side
  pending := h2.pending.trans h1.pending
  stimIndex := h2.stimIndex.trans h1.stimIndex

theorem TxFrame.appendsOnly {s t : State} (h : TxFrame s t) : AppendsOnly s t :=
  ⟨h.grows, by rw [h.returned], h.par, h.side, h.pending, h.stimIndex⟩

theorem RxFrame.appendsOnly {s t : State} (h : RxFrame s t) : AppendsOnly s t :=
  ⟨h.grows, by rw [h.returned], h.par, h.side, h.pending, h.stimIndex⟩

/-! The operations that stimuli are composed of -/

/-- The groups of the engine's record (R13) are neither outputs nor inputs, whatever is written to them. -/
theorem AppendsOnly.record (s : State) {baud : Baud} {tx : Tx} {rx : Rx} {irq : Irq} {lines : Lines}
    {session : Session} {cfg : SessionCfg} : AppendsOnly s { s with
      baud := baud, tx := tx, rx := rx, irq := irq, lines := lines, session := session, cfg := cfg } :=
  ⟨.refl s, List.prefix_rfl, rfl, rfl, rfl, rfl⟩

theorem AppendsOnly.emit (e : Event) (s : State) : AppendsOnly s (emit e s) :=
  ⟨⟨[eventEntry s e], rfl, by simp [eventEntry]⟩, List.prefix_rfl, rfl, rfl, rfl, rfl⟩

theorem AppendsOnly.called (x : Exchange) (rest : Script) (s : State) : AppendsOnly s (called x rest s) :=
  ⟨⟨[callEntry s x], rfl, by simp [callEntry]⟩, List.prefix_rfl, rfl, rfl, rfl, rfl⟩

theorem AppendsOnly.giveBack (r : Returned) (s : State) : AppendsOnly s (giveBack r s) :=
  ⟨.refl s, List.prefix_append _ _, rfl, rfl, rfl, rfl⟩

/-- A failure of the transport is a write of the session and a log (R95). -/
theorem transportFailed_appendsOnly (s : State) : AppendsOnly s (transportFailed s) :=
  (AppendsOnly.record s).trans (.emit _ _)

/-! The period register -/

theorem rescaleRemainder_appendsOnly (t newBT : Nat) (s : State) : AppendsOnly s (rescaleRemainder t newBT s) := by
  unfold rescaleRemainder
  split
  · split
    · exact .record s
    · exact (AppendsOnly.record s).trans (.emit _ _)
  · exact .record s

theorem rescale_appendsOnly (t newBT : Nat) (s : State) : AppendsOnly s (rescale t newBT s) := by
  unfold rescale
  split
  · exact .refl s
  · exact (rescaleRemainder_appendsOnly t newBT s).trans (.record _)

/-- The two events of a write of the period stand between its two writes of the period group (R55). -/
theorem setPeriod_appendsOnly (w : Reg) (s : State) : AppendsOnly s (setPeriod w s) :=
  (AppendsOnly.record s)
    |>.trans (.emit (.applyBaud (appliedRate s.par.baudTable w)) _)
    |>.trans (.emit (.log .baudSet) _)
    |>.trans (.record _)

theorem writePeriod_appendsOnly (w : Reg) (s : State) : AppendsOnly s (writePeriod w s) := by
  rcases writePeriod_cases w s with h | h | ⟨-, h⟩ <;> rw [h]
  · exact .refl s
  · exact setPeriod_appendsOnly w s
  · exact (setPeriod_appendsOnly w s).trans (rescale_appendsOnly _ _ _)

/-! The transmit stimuli -/

theorem held_appendsOnly (w : Reg) (s : State) : AppendsOnly s (held w s) := by
  unfold held
  simp only []
  split
  · exact (AppendsOnly.emit (.log .holdingOverwritten) s).trans (.record _)
  · exact .record s

theorem writeData_appendsOnly (w : Reg) (s : State) : AppendsOnly s (writeData w s) := by
  rw [writeData_eq]
  split
  · exact (held_appendsOnly w s).trans (load_frame _ _).appendsOnly
  · exact held_appendsOnly w s

/-- An assertion that does anything logs once and writes the transmit group (R67). -/
theorem assertBreak_appendsOnly (s : State) : AppendsOnly s (assertBreak s) := by
  rcases assertBreak_cases s with h | ⟨-, h⟩ | ⟨-, rem, h⟩ <;> rw [h]
  · exact .refl s
  · exact (AppendsOnly.emit (.log .breakOn) s).trans (.record _)
  · exact (AppendsOnly.emit (.log .breakOn) s).trans (.record _)

theorem clearBreak_appendsOnly (s : State) : AppendsOnly s (clearBreak s) :=
  (AppendsOnly.record s).trans (.emit (.log .breakOff) _)

/-! The receive stimuli -/

theorem clearRead_appendsOnly (s : State) : AppendsOnly s (clearRead s) := by
  unfold clearRead
  simp only []
  split
  · exact ((AppendsOnly.record s).trans (.emit .irqRBF _)).trans (.record _)
  · exact .record s

theorem readData_appendsOnly (s : State) : AppendsOnly s (readData s) :=
  (clearRead_appendsOnly s).trans (.giveBack _ _)

theorem scheduleNextEcho_appendsOnly (s : State) : AppendsOnly s (scheduleNextEcho s) := by
  rcases scheduleNextEcho_eq s with h | ⟨e, rest, -, h⟩ <;> rw [h]
  · exact .refl s
  · exact .emit _ s

/-- The echo leaves its queue and is delivered before the next one's callback is requested (R83). -/
theorem fireLoopback_appendsOnly (s : State) : AppendsOnly s (fireLoopback s) := by
  rcases fireLoopback_cases s with h | ⟨e, rest, -, h⟩ <;> rw [h]
  · exact .refl s
  · exact ((AppendsOnly.record s).trans (deliver_frame e.word _).appendsOnly).trans (scheduleNextEcho_appendsOnly _)

/-! The control lines -/

theorem readStatus_appendsOnly (dir cur : Byte) (s : State) : AppendsOnly s (readStatus dir cur s) :=
  ((afterSource_took s).frame.appendsOnly.trans (.record _)).trans (.giveBack _ _)

theorem forwardLines_appendsOnly (dtr rts : Bool) (s : State) : AppendsOnly s (forwardLines dtr rts s) := by
  have hcall : AppendsOnly s (calledSetLineStatus dtr rts s) := .called _ _ s
  unfold forwardLines
  split
  · split
    · exact hcall.trans (transportFailed_appendsOnly _)
    · exact hcall.trans (.emit _ _)
  · exact .refl s

theorem writeStatus_appendsOnly (dir val : Byte) (s : State) : AppendsOnly s (writeStatus dir val s) := by
  unfold writeStatus
  simp only []
  split
  · exact .refl s
  · exact (AppendsOnly.record s).trans (forwardLines_appendsOnly _ _ _)

/-! The tick -/

theorem tickRx_appendsOnly (lc count : Nat) (brk : Bool) (s : State) : AppendsOnly s (tickRx lc count brk s) := by
  obtain ⟨n, hframe⟩ := tickRx_frame lc count brk s
  exact (AppendsOnly.record s).trans hframe.appendsOnly

/-- The parts of a tick in their order (R90). -/
theorem tickBody_appendsOnly (lc : Nat) (s : State) : AppendsOnly s (tickBody lc s) := by
  rw [tickBody_eq_parts]
  exact (beforeTx_frame _ s).appendsOnly
    |>.trans (txTick_frame _ lc _).appendsOnly
    |>.trans (tickRx_appendsOnly lc _ _ _)
    |>.trans (rxBreakTick_frame _).appendsOnly
    |>.trans (breakTxTick_frame _ _).appendsOnly

/-! The session's start and end -/

/-- Every way of opening a session ends so: the transport is attached, the outcome logged and given back (R100). -/
theorem attach_appendsOnly (k : Transport) (available : Bool) (reason : LogReason) (r : Returned) (s : State) :
    AppendsOnly s (giveBack r (logReason reason (attach k available s))) :=
  ((AppendsOnly.record s).trans (.emit (.log reason) _)).trans (.giveBack r _)

theorem openBackend_appendsOnly (k : Transport) (s : State) : AppendsOnly s (openBackend k s) := by
  have hcall : AppendsOnly s (calledOpen k s) := .called _ _ s
  unfold openBackend
  split
  · exact hcall.trans (attach_appendsOnly _ _ _ _ _)
  · exact hcall.trans (attach_appendsOnly _ _ _ _ _)
  · exact hcall.trans (attach_appendsOnly _ _ _ _ _)

/-- The reset of `OPEN` covers the engine's record alone, not what has been output (R100, R115). -/
theorem openBody_appendsOnly (s : State) : AppendsOnly s (openBody s) := by
  have hfresh : AppendsOnly s (freshSession s) := .record s
  unfold openBody
  simp only []
  split
  · exact hfresh.trans (attach_appendsOnly _ _ _ _ _)
  · split
    · exact hfresh.trans (attach_appendsOnly _ _ _ _ _)
    · exact hfresh.trans (openBackend_appendsOnly _ _)

theorem closeBody_appendsOnly (s : State) : AppendsOnly s (closeBody s) :=
  (AppendsOnly.record s).trans (.emit (.log .closed) _)

/-! Every stimulus -/

theorem exec_appendsOnly {i : Instr} {s t : State} (h : exec i s = .next t) : AppendsOnly s t := by
  cases i <;> cases h
  case wserper w => exact writePeriod_appendsOnly w s
  case wserdat w => exact writeData_appendsOnly w s
  case rserdatr => exact readData_appendsOnly s
  case rstatus dir cur => exact readStatus_appendsOnly dir cur s
  case wstatus dir val => exact writeStatus_appendsOnly dir val s
  case setbrk => exact assertBreak_appendsOnly s
  case clrbrk => exact clearBreak_appendsOnly s
  case ackrbf => exact .record s
  case tick lc => exact tickBody_appendsOnly lc s
  case fireTxDone => exact (fireTxDone_frame s).appendsOnly
  case fireLoopbackRx => exact fireLoopback_appendsOnly s
  case openSession => exact openBody_appendsOnly s
  case closeSession => exact closeBody_appendsOnly s

/-- Settles O12: each stimulus is composed of operations that append only. -/
theorem historyIsAppendOnly : Obligations.HistoryIsAppendOnly := by
  intro i s t h
  obtain ⟨hgrows, ⟨given, hgiven⟩, hpar, hside, hpending, hindex⟩ := exec_appendsOnly h
  exact ⟨hgrows, ⟨given, hgiven.symm⟩, hpar, hside, hpending, hindex⟩

end Sys2Proof.Machine

/-! Encoding and decoding (R36 to R40): the operation map read once in each direction. `decode_eq_ok_iff` says which words
are accepted, `decode_error_iff` which are refused. -/

namespace Sys2Proof

theorem decode_assemble (op sub : BitVec 4) (b : Byte) (a : Reg) :
    decode (assemble op sub b a) = decodeFields op sub b a := by
  simp [decode]

/-- A row of the operation map accepts its own instruction only, and only when its zero fields are zero (R38). -/
theorem accept_eq_ok_iff {zero : Bool} {op : BitVec 4} {i j : Instr} :
    accept zero op i = .ok j ↔ zero = true ∧ i = j := by
  cases zero <;> simp [accept]

theorem accept_error_iff {zero : Bool} {op : BitVec 4} {i : Instr} :
    (∃ r, accept zero op i = .error r) ↔ zero = false := by
  cases zero <;> simp [accept]

/-! The low byte of `A`, where the rows of the status byte have their second operand (R38) -/

theorem aHigh_setWidth (v : Byte) : aHigh (v.setWidth 16) = 0 := by
  have hv := v.isLt
  apply BitVec.eq_of_toNat_eq
  rw [aHigh_toNat, BitVec.toNat_setWidth_of_le (by omega)]
  exact Nat.div_eq_of_lt hv

theorem aLow_setWidth (v : Byte) : aLow (v.setWidth 16) = v := by
  have hv := v.isLt
  apply BitVec.eq_of_toNat_eq
  rw [aLow_toNat, BitVec.toNat_setWidth_of_le (by omega)]
  omega

theorem setWidth_aLow {a : Reg} (h : aHigh a = 0) : (aLow a).setWidth 16 = a := by
  have hhigh : a.toNat / 256 = 0 := by rw [← aHigh_toNat, h]; rfl
  apply BitVec.eq_of_toNat_eq
  rw [BitVec.toNat_setWidth_of_le (by omega), aLow_toNat]
  omega

/-! Accepted words -/

/-- Each row of the operation map reads back what `encode` writes there. -/
theorem decode_encode {i : Instr} (h : i.wf = true) : decode (encode i) = .ok i := by
  cases i <;> rw [encode, decode_assemble]
  case tick lc =>
    have hfits : lc < 2 ^ 16 := by simpa [Instr.wf, Instr.tickFits] using h
    have hlc : (BitVec.ofNat 16 lc).toNat = lc := by rw [BitVec.toNat_ofNat, Nat.mod_eq_of_lt hfits]
    exact accept_eq_ok_iff.mpr ⟨rfl, by rw [hlc]⟩
  case rstatus dir v | wstatus dir v =>
    exact accept_eq_ok_iff.mpr ⟨by simp [aHigh_setWidth], by rw [aLow_setWidth]⟩
  all_goals rfl

/-- What a row of opcode `n` says when it accepts. -/
theorem row_accepts {op : BitVec 4} {n : Nat} {zero : Bool} {i j : Instr} (hop : op.toNat = n)
    (h : accept zero op i = .ok j) : zero = true ∧ i = j ∧ op = BitVec.ofNat 4 n := by
  obtain ⟨hzero, hij⟩ := accept_eq_ok_iff.mp h
  exact ⟨hzero, hij, (BitVec.toNat_eq_nat.mp hop).2⟩

/-- Whichever row accepts, the fields it has read are those `encode` writes. Case `h_n` is the row of opcode `n`. -/
theorem encode_of_decodeFields {op sub : BitVec 4} {b : Byte} {a : Reg} {i : Instr}
    (h : decodeFields op sub b a = .ok i) : i.wf = true ∧ encode i = assemble op sub b a := by
  unfold decodeFields at h
  split at h
  case h_1 hop | h_2 hop =>
    obtain ⟨hzero, rfl, rfl⟩ := row_accepts hop h
    obtain ⟨rfl, rfl⟩ : sub = 0 ∧ b = 0 := by simpa using hzero
    exact ⟨rfl, rfl⟩
  case h_4 hop | h_5 hop =>
    obtain ⟨hzero, rfl, rfl⟩ := row_accepts hop h
    obtain ⟨rfl, hhigh⟩ : sub = 0 ∧ aHigh a = 0 := by simpa using hzero
    exact ⟨rfl, congrArg (assemble _ _ _) (setWidth_aLow hhigh)⟩
  case h_9 hop =>
    obtain ⟨hzero, rfl, rfl⟩ := row_accepts hop h
    obtain ⟨rfl, rfl⟩ : sub = 0 ∧ b = 0 := by simpa using hzero
    have hback : BitVec.ofNat 16 a.toNat = a := by simp
    exact ⟨decide_eq_true a.isLt, congrArg (assemble _ _ _) hback⟩
  case h_10 hop =>
    split at h
    case h_1 hsub | h_2 hsub =>
      obtain ⟨hzero, rfl, rfl⟩ := row_accepts hop h
      obtain ⟨-, rfl⟩ := BitVec.toNat_eq_nat.mp hsub
      obtain ⟨rfl, rfl⟩ : b = 0 ∧ a = 0 := by simpa using hzero
      exact ⟨rfl, rfl⟩
    case h_3 => cases h
  case h_3 hop | h_6 hop | h_7 hop | h_8 hop | h_11 hop | h_12 hop =>
    obtain ⟨hzero, rfl, rfl⟩ := row_accepts hop h
    obtain ⟨⟨rfl, rfl⟩, rfl⟩ : (sub = 0 ∧ b = 0) ∧ a = 0 := by simpa using hzero
    exact ⟨rfl, rfl⟩
  case h_13 => cases h

/-- A word is accepted as `i` exactly when it is the encoding of `i` and every operand fits (R36, R38, R39). -/
theorem decode_eq_ok_iff {w : Word} {i : Instr} : decode w = .ok i ↔ i.wf = true ∧ encode i = w := by
  constructor
  · intro h
    rw [← assemble_fields w]
    exact encode_of_decodeFields h
  · rintro ⟨hwf, rfl⟩
    exact decode_encode hwf

/-- Settles O1: every row reads back its own encoding. -/
theorem decodeOfEncodeIsTheInstruction : Obligations.DecodeOfEncodeIsTheInstruction :=
  fun _ hwf => decode_encode hwf

/-- Settles O2: `decode_eq_ok_iff` from left to right. -/
theorem acceptedWordIsTheEncoding : Obligations.AcceptedWordIsTheEncoding :=
  fun _ _ h => decode_eq_ok_iff.mp h

/-- Settles O6: each word is the encoding of its instruction, whose operands fit. -/
theorem wordsOfTheSpecDecode : Obligations.WordsOfTheSpecDecode := by
  simp only [Obligations.WordsOfTheSpecDecode, decode_eq_ok_iff]
  decide

/-! Refused words (R40) -/

/-- The reserved words of R40, by the numbers of their fields, in the order of its clauses. -/
def ReservedFields (op sub b a : Nat) : Prop :=
  op = 0 ∨ op = 0xD ∨ op = 0xE ∨ op = 0xF ∨ (op = 0xA ∧ 2 ≤ sub) ∨ (op ≠ 0xA ∧ sub ≠ 0) ∨
    (op ≠ 4 ∧ op ≠ 5 ∧ b ≠ 0) ∨ ((op = 4 ∨ op = 5) ∧ a / 256 ≠ 0) ∨
    ((op = 3 ∨ (6 ≤ op ∧ op ≤ 8) ∨ 0xA ≤ op) ∧ a ≠ 0)

/-- The check of a zero field, as its number. -/
theorem beq_zero_eq_decide {n : Nat} (x : BitVec n) : (x == 0) = decide (x.toNat = 0) := by
  rw [beq_eq_decide, decide_eq_decide]
  exact BitVec.toNat_eq

/-- Each row refuses by its own zero fields, and a word without a row is refused whatever its fields are. -/
theorem decodeFields_error_iff (op sub : BitVec 4) (b : Byte) (a : Reg) :
    (∃ r, decodeFields op sub b a = .error r) ↔ ReservedFields op.toNat sub.toNat b.toNat a.toNat := by
  have hopLt := op.isLt
  unfold decodeFields ReservedFields
  split
  case h_10 hop =>
    split
    case h_1 hsub | h_2 hsub =>
      rw [accept_error_iff]
      simp only [beq_zero_eq_decide, Bool.and_eq_false_iff, decide_eq_false_iff_not]
      omega
    case h_3 =>
      simp only [Except.error.injEq, exists_eq', true_iff, imp_false] at *
      omega
  case h_13 =>
    simp only [Except.error.injEq, exists_eq', true_iff, imp_false] at *
    omega
  all_goals
    rw [accept_error_iff]
    simp only [beq_zero_eq_decide, aHigh_toNat, Bool.and_eq_false_iff, decide_eq_false_iff_not]
    omega

theorem decode_error_iff (w : Word) :
    (∃ r, decode w = .error r) ↔
      ReservedFields (w.toNat / 2 ^ 28) (w.toNat / 2 ^ 24 % 16) (w.toNat / 2 ^ 16 % 256) (w.toNat % 2 ^ 16) := by
  rw [← opOf_toNat, ← subOf_toNat, ← bOf_toNat, ← aOf_toNat]
  exact decodeFields_error_iff _ _ _ _

end Sys2Proof

namespace Sys2Proof.Machine

/-! A step on the next stimulus of the stream, by what its word decodes to (R32, R40) -/

theorem step_of_decode_ok {s : State} {st : Stimulus} {rest : List Stimulus} {i : Instr}
    (hpending : s.pending = st :: rest) (h : decode st.word = .ok i) : step s = exec i (takeStimulus st rest s) := by
  unfold step
  rw [hpending]
  simp only [h]

theorem step_of_decode_error {s : State} {st : Stimulus} {rest : List Stimulus} {r : Reserved}
    (hpending : s.pending = st :: rest) (h : decode st.word = .error r) : step s = .refused (.reservedWord r) := by
  unfold step
  rw [hpending]
  simp only [h]

/-- Every instruction answers a next state in every state (R102, R109). -/
theorem exec_next (i : Instr) (s : State) : ∃ t, exec i s = .next t := by
  cases i <;> exact ⟨_, rfl⟩

/-- No instruction refuses, so a step is refused for its word only. -/
theorem step_refused_iff {s : State} {st : Stimulus} {rest : List Stimulus} (hpending : s.pending = st :: rest) :
    (∃ r, step s = .refused r) ↔ ∃ r, decode st.word = .error r := by
  constructor
  · rintro ⟨r, hstep⟩
    cases hdecode : decode st.word with
    | error r' => exact ⟨r', rfl⟩
    | ok i =>
      obtain ⟨t, ht⟩ := exec_next i (takeStimulus st rest s)
      rw [step_of_decode_ok hpending hdecode, ht] at hstep
      cases hstep
  · rintro ⟨r, h⟩
    exact ⟨_, step_of_decode_error hpending h⟩

/-- Settles O3: `decode_error_iff` for the decoder, and a step is refused exactly when its word is. -/
theorem reservedWordsAreExactlyTheRefused : Obligations.ReservedWordsAreExactlyTheRefused := by
  intro s st rest hpending
  have hdecoder := decode_error_iff st.word
  exact ⟨hdecoder.symm, hdecoder.symm.trans (step_refused_iff hpending).symm,
    fun r h => step_of_decode_error hpending h⟩

/-! The two words the engine gives back: that of `RSERDATR` (R46) and the status byte (R47) -/

/-- A read gives back the composite word of the state before it (R81). -/
theorem readData_returned (s : State) : (readData s).returned = s.returned ++ [.serdatr (serdatrWord s)] := by
  have hkept : (clearRead s).returned = s.returned := by
    unfold clearRead
    simp only []
    split
    · rfl
    · rfl
  rw [readData, giveBack_returned, hkept]

/-- Settles O36: the word is `serdatrWord`, bit by bit. -/
theorem serdatrBitsAreTheFlags : Obligations.SerdatrBitsAreTheFlags := by
  intro s
  refine ⟨serdatrWord s, ⟨readData s, rfl, readData_returned s⟩, ?_, ?_, ?_, ?_, ?_, ?_, fun i hi => ?_⟩
    <;> rw [serdatrWord_getLsbD]
  · simp [flagOVRUN]
  · simp [flagRBF]
  · simp [flagTBE]
  · simp [flagTSRE]
  · simp [flagRXD]
  · simp
  · have hflags : i ≠ 15 ∧ i ≠ 14 ∧ i ≠ 13 ∧ i ≠ 12 ∧ i ≠ 11 := by omega
    simp [hi, hflags]

/-- Bit `j` of the status byte: each of the four lines puts its own bit and keeps the others (R87, R88). -/
theorem statusByte_getLsbD (dir cur : Byte) (ri : Bool) (l : LineLevels) (j : Nat) :
    (statusByte dir cur ri l).getLsbD j =
      if j = 2 ∧ ri = true ∧ dir.getLsbD 2 = false then !l.ri
      else if j = 3 ∧ dir.getLsbD 3 = false then !l.dsr
      else if j = 4 ∧ dir.getLsbD 4 = false then !l.cts
      else if j = 5 ∧ dir.getLsbD 5 = false then !l.cd
      else cur.getLsbD j := by
  cases ri <;> simp [statusByte, putLine_getLsbD]

/-- Settles O52: `statusByte_getLsbD` at each bit. -/
theorem statusByteReportsTheInputLines : Obligations.StatusByteReportsTheInputLines := by
  intro dir cur ri l
  simp only [statusByte_getLsbD]
  refine ⟨?_, ?_, ?_, ?_, ?_⟩
  · cases dir.getLsbD 5 <;> simp
  · cases dir.getLsbD 4 <;> simp
  · cases dir.getLsbD 3 <;> simp
  · simp
  · rintro i (rfl | rfl | rfl | rfl) <;> simp

end Sys2Proof.Machine

/-! The baud table (R49 to R51): the walk stops at the first entry that is not passed, and what the conditions on a
legal table say of the two rates the spec names. -/

namespace Sys2Proof.Machine

/-! The walk and its fallback -/

/-- Entries that are passed do not stop the walk (R50). -/
theorem walk_append_of_passed {per : Nat} {before : List Nat} (hpassed : ∀ u ∈ before, per > u * 100 / 97)
    (rest : List Nat) : walk per (before ++ rest) = walk per rest := by
  induction before with
  | nil => rfl
  | cons u before ih =>
    obtain ⟨hu, hbefore⟩ := List.forall_mem_cons.mp hpassed
    rw [List.cons_append, walk, if_pos hu, ih hbefore]

theorem walk_eq_none_of_passed {per : Nat} {table : List Nat} (hpassed : ∀ u ∈ table, per > u * 100 / 97) :
    walk per table = none := by
  simpa [walk] using walk_append_of_passed hpassed []

/-- The first entry that is not passed is selected (R50). -/
theorem snap_of_stops {m t : Nat} {before after : List Nat} (hpassed : ∀ u ∈ before, timerRate m > u * 100 / 97)
    (hstops : ¬ timerRate m > t * 100 / 97) : snap (before ++ t :: after) m = t := by
  have hwalk : walk (timerRate m) (before ++ t :: after) = some t := by
    rw [walk_append_of_passed hpassed, walk, if_neg hstops]
  rw [snap, hwalk]

/-- A table that is passed throughout gives its second entry (R51). -/
theorem snap_of_exhausted {m : Nat} {table : List Nat} (hpassed : ∀ u ∈ table, timerRate m > u * 100 / 97) :
    snap table m = table.getD 1 0 := by
  rw [snap, walk_eq_none_of_passed hpassed, lowestRate]

/-- Settles O19: `snap_of_stops` and `snap_of_exhausted`. -/
theorem snapSelectsTheFirstEntryNotPassed : Obligations.SnapSelectsTheFirstEntryNotPassed := by
  intro table m per
  refine ⟨?_, snap_of_exhausted⟩
  rintro before t after rfl hpassed hstops
  exact snap_of_stops hpassed hstops

/-! Legal tables -/

/-- The conditions of R49 that the two rates rest on: (d), (e) and (f). -/
theorem legal_table {p : Params} (h : p.legal = true) :
    9600 ∈ p.baudTable.tail ∧ (∀ u ∈ p.baudTable.takeWhile (fun t => t != 9600), u * 100 / 97 < 9612) ∧
      ∀ u ∈ p.baudTable, u * 100 / 97 < 3546895 := by
  simp only [Params.legal, Config.baudTableLegal, Bool.and_eq_true, List.all_eq_true, decide_eq_true_eq,
    List.contains_iff_mem] at h
  obtain ⟨⟨⟨⟨⟨⟨⟨-, hentry⟩, hbefore⟩, hexhausted⟩, -⟩, -⟩, -⟩, -⟩ := h
  exact ⟨hentry, hbefore, hexhausted⟩

/-- A legal table is exhausted at period 0 (R49 (f)). -/
theorem legal_passed_at_zero {p : Params} (h : p.legal = true) : ∀ u ∈ p.baudTable, timerRate 0 > u * 100 / 97 := by
  obtain ⟨-, -, hexhausted⟩ := legal_table h
  exact hexhausted

/-- In a legal table 9600 stands behind entries that are all passed at 9612 (R49 (d), (e)). -/
theorem legal_passed_before_9600 {p : Params} (h : p.legal = true) :
    ∃ before after, p.baudTable = before ++ 9600 :: after ∧ ∀ u ∈ before, timerRate 368 > u * 100 / 97 := by
  obtain ⟨hentry, hpassed, -⟩ := legal_table h
  obtain ⟨before, after, htable, hfirst⟩ := List.eq_append_cons_of_mem (List.mem_of_mem_tail hentry)
  have hbefore : p.baudTable.takeWhile (fun t => t != 9600) = before := by
    rw [htable, List.takeWhile_append_of_pos (fun u hu => by simpa using ne_of_mem_of_not_mem hu hfirst),
      List.takeWhile_cons_of_neg (by simp), List.append_nil]
  rw [hbefore] at hpassed
  exact ⟨before, after, htable, hpassed⟩

/-- With the default table a rate count of at most 12 is above the top rate (R51). -/
theorem default_passed_of_le_twelve {m : Nat} (hm : m ≤ 12) :
    ∀ u ∈ Config.defaultBaudTable, timerRate m > u * 100 / 97 := by
  have hrate : 3546895 / 13 ≤ timerRate m :=
    (Nat.div_le_div_left (by omega) (Nat.succ_pos m)).trans (le_max_left _ _)
  have htop : ∀ u ∈ Config.defaultBaudTable, u * 100 / 97 < 3546895 / 13 := by decide
  exact fun u hu => (htop u hu).trans_le hrate

/-- Settles O20: each of these rate counts exhausts its table; 13 is stopped by the last entry of the default one. -/
theorem periodZeroFallsBackToTheLowestRate : Obligations.PeriodZeroFallsBackToTheLowestRate := by
  refine ⟨fun table m => snap_of_exhausted, fun p h => snap_of_exhausted (legal_passed_at_zero h),
    fun m hm => snap_of_exhausted (default_passed_of_le_twelve hm), ?_⟩
  exact snap_of_stops (before := Config.defaultBaudTable.dropLast) (after := []) (by decide) (by decide)

/-- Settles O21: the walk reaches 9600 and stops there. -/
theorem period368ResolvesTo9600 : Obligations.Period368ResolvesTo9600 := by
  intro p h
  obtain ⟨before, after, htable, hpassed⟩ := legal_passed_before_9600 h
  rw [htable]
  exact snap_of_stops hpassed (by decide)

end Sys2Proof.Machine

/-! `WSERPER` (R52 to R55): the period group it sets, and the rescale of a frame that is draining, each in full. -/

namespace Sys2Proof.Machine

theorem exec_wserper (w : Reg) (s : State) : exec (.wserper w) s = .next (writePeriod w s) := rfl

/-! The period group -/

/-- The period group and its two events, from the bits of the word (R52, R53, R55). -/
theorem setPeriod_eq (w : Reg) (s : State) :
    let m := w.toNat % 2 ^ 15
    let rate := if w.getLsbD 15 then 2 * snap s.par.baudTable m else snap s.par.baudTable m
    let frameCycles := (m + 1) * (if w.getLsbD 15 then 11 else 10)
    setPeriod w s = { s with
      baud := { period := w, periodSet := true, appliedBaud := rate, txPeriodCycles := frameCycles,
                rxPeriodCycles := max (frameCycles / 4) s.par.lineCycles }
      history := s.history ++ [eventEntry s (.applyBaud rate), eventEntry s (.log .baudSet)] } := by
  have hrate : appliedRate s.par.baudTable w = if w.getLsbD 15 then 2 * snap s.par.baudTable (w.toNat % 2 ^ 15)
      else snap s.par.baudTable (w.toNat % 2 ^ 15) := by rw [appliedRate, rateCount_eq, ninebit]
  have hperiod : txPeriodOf w = (w.toNat % 2 ^ 15 + 1) * (if w.getLsbD 15 then 11 else 10) := by
    rw [txPeriodOf, rateCount_eq, frameBits_eq, ninebit]
  simp only [← hrate, ← hperiod]
  simp [setPeriod, rxPeriodOf, logReason, emit, eventEntry]

/-- A repeated period is no write (R55). -/
theorem writePeriod_repeated {s : State} (hset : s.baud.periodSet = true) : writePeriod s.baud.period s = s := by
  simp [writePeriod, hset]

/-- A period that is new, or the first, is set; a frame that is draining is rescaled to it (R55). -/
theorem writePeriod_effective {w : Reg} {s : State} (heffective : ¬ (s.baud.periodSet = true ∧ s.baud.period = w)) :
    writePeriod w s = if s.tx.shiftState = .draining then rescale s.side.now (w.toNat % 2 ^ 15 + 1) (setPeriod w s)
      else setPeriod w s := by
  have hguard : (s.baud.periodSet && w == s.baud.period) = false := by
    simpa [eq_comm (a := w)] using heffective
  rw [writePeriod, hguard, ← rateCount_eq]
  rfl

/-- Settles O22: `writePeriod_repeated`. -/
theorem wserperOfTheSamePeriodIsNoOp : Obligations.WserperOfTheSamePeriodIsNoOp := by
  intro s hset
  rw [exec_wserper, writePeriod_repeated hset]

/-- Settles O23: with no frame draining the write is `setPeriod` alone. -/
theorem wserperOnAnUndrainedShifterSetsThePeriodGroup : Obligations.WserperOnAnUndrainedShifterSetsThePeriodGroup := by
  intro w s heffective hundrained
  rw [exec_wserper, writePeriod_effective heffective, if_neg hundrained, setPeriod_eq]

/-! The rescale, one equation for each of its cases (R54) -/

theorem rescale_unchanged (t : Nat) {newBT : Nat} {s : State} (hsame : newBT = s.tx.txBitTime) :
    rescale t newBT s = s := by
  rw [rescale, if_pos hsame]

/-- In cycle-exact mode the deadline moves, and its callback with it. -/
theorem rescale_live (t : Nat) {newBT : Nat} {s : State} (hnew : newBT ≠ s.tx.txBitTime)
    (hexact : s.cfg.cycleExact = true) (hwindow : s.tx.breakTxCounter = 0) :
    let done := t + ceilDiv ((s.tx.txDoneAt - t) * newBT) s.tx.txBitTime
    rescale t newBT s = { s with
      tx := { s.tx with txDoneAt := done, txBitTime := newBT, txFrameCycles := newBT * s.tx.shiftBits }
      history := s.history ++ [eventEntry s (.schedule .txDone done s.session.gen)] } := by
  simp [rescale, hnew, rescaleRemainder, hexact, hwindow, rescaleDeadline, schedule, emit, eventEntry]

/-- In a break window the frozen remainder moves. -/
theorem rescale_frozen (t : Nat) {newBT : Nat} {s : State} (hnew : newBT ≠ s.tx.txBitTime)
    (hexact : s.cfg.cycleExact = true) (hwindow : 0 < s.tx.breakTxCounter) :
    rescale t newBT s = { s with
      tx := { s.tx with
        txFrozenRem := ceilDiv (s.tx.txFrozenRem * newBT) s.tx.txBitTime
        txBitTime := newBT
        txFrameCycles := newBT * s.tx.shiftBits } } := by
  simp [rescale, hnew, rescaleRemainder, hexact, hwindow, rescaleFrozen]

/-- Outside cycle-exact mode the accumulator moves. -/
theorem rescale_accumulating (t : Nat) {newBT : Nat} {s : State} (hnew : newBT ≠ s.tx.txBitTime)
    (hexact : s.cfg.cycleExact = false) :
    rescale t newBT s = { s with
      tx := { s.tx with
        txAccum := newBT * s.tx.shiftBits - ceilDiv ((s.tx.txFrameCycles - s.tx.txAccum) * newBT) s.tx.txBitTime
        txBitTime := newBT
        txFrameCycles := newBT * s.tx.shiftBits } } := by
  simp [rescale, hnew, rescaleRemainder, hexact, rescaleAccum]

/-- Settles O24: the write is `setPeriod` and then the rescale in its case; `setPeriod` writes none of the fields the
cases turn on. -/
theorem wserperWhileDrainingRescales : Obligations.WserperWhileDrainingRescales := by
  intro w s heffective hdraining m rate frameCycles newBaud events scaled done newFrame
  have hset : setPeriod w s = { s with baud := newBaud, history := s.history ++ events } := setPeriod_eq w s
  have hwrite : exec (.wserper w) s = .next (rescale s.side.now (m + 1) (setPeriod w s)) := by
    rw [exec_wserper, writePeriod_effective heffective, if_pos hdraining]
  rw [hwrite]
  refine ⟨fun hsame => ?_, fun hnew hexact hwindow => ?_, fun hnew hexact hwindow => ?_, fun hnew hexact => ?_⟩
  · rw [rescale_unchanged (s := setPeriod w s) _ hsame, hset]
  · rw [rescale_live (s := setPeriod w s) _ hnew hexact hwindow, hset]
    rfl
  · rw [rescale_frozen (s := setPeriod w s) _ hnew hexact hwindow, hset]
    rfl
  · rw [rescale_accumulating (s := setPeriod w s) _ hnew hexact, hset]
    rfl

/-! The remaining fraction of the frame (R54) -/

theorem ceilDiv_le_iff {a b c : Nat} (hb : 0 < b) : ceilDiv a b ≤ c ↔ a ≤ b * c := ceilDiv_le_iff_le_mul hb

/-- A remainder of `before` cycles at the bit time `oldBT` and one of `after` cycles at `newBT` are the same fraction of
a frame, rounded up by less than a cycle. -/
def FractionKept (oldBT newBT before after : Nat) : Prop :=
  before * newBT ≤ after * oldBT ∧ after * oldBT < before * newBT + oldBT

theorem FractionKept.refl {bt : Nat} (hpos : 0 < bt) (rem : Nat) : FractionKept bt bt rem rem :=
  ⟨le_rfl, Nat.lt_add_of_pos_right hpos⟩

/-- "rounding is upward" (R54). -/
theorem FractionKept.of_ceilDiv {oldBT : Nat} (hpos : 0 < oldBT) (newBT rem : Nat) :
    FractionKept oldBT newBT rem (ceilDiv (rem * newBT) oldBT) := by
  have hlower : rem * newBT ≤ oldBT * ceilDiv (rem * newBT) oldBT := (ceilDiv_le_iff hpos).mp le_rfl
  have hupper : oldBT * ceilDiv (rem * newBT) oldBT ≤ rem * newBT + oldBT - 1 := Nat.mul_div_le _ _
  rw [FractionKept, Nat.mul_comm _ oldBT]
  omega

/-- The frame in the shifter has its bits and the rest of its time in `t` as in `s`, at the bit times of the two. The
three remainders are those of the three cases of `Rescale`. -/
structure KeepsFraction (s t : State) : Prop where
  bits : t.tx.shiftBits = s.tx.shiftBits
  length : t.tx.txFrameCycles = t.tx.txBitTime * s.tx.shiftBits
  live : s.cfg.cycleExact = true → s.tx.breakTxCounter = 0 →
    FractionKept s.tx.txBitTime t.tx.txBitTime (s.tx.txDoneAt - s.side.now) (t.tx.txDoneAt - t.side.now)
  frozen : s.cfg.cycleExact = true → 0 < s.tx.breakTxCounter →
    FractionKept s.tx.txBitTime t.tx.txBitTime s.tx.txFrozenRem t.tx.txFrozenRem
  accumulating : s.cfg.cycleExact = false →
    FractionKept s.tx.txBitTime t.tx.txBitTime (s.tx.txFrameCycles - s.tx.txAccum) (t.tx.txFrameCycles - t.tx.txAccum)

theorem KeepsFraction.refl {s : State} (hlength : s.tx.txFrameCycles = s.tx.txBitTime * s.tx.shiftBits)
    (hpos : 0 < s.tx.txBitTime) : KeepsFraction s s :=
  ⟨rfl, hlength, fun _ _ => .refl hpos _, fun _ _ => .refl hpos _, fun _ => .refl hpos _⟩

/-- The rescaled remainder fits the rescaled frame, so that the accumulator is not cut at 0. -/
theorem ceilDiv_remainder_le {bits bitTime frame rem : Nat} (newBT : Nat) (hpos : 0 < bitTime)
    (hlength : frame = bitTime * bits) (hrem : rem ≤ frame) : ceilDiv (rem * newBT) bitTime ≤ newBT * bits := by
  rw [ceilDiv_le_iff hpos]
  calc rem * newBT ≤ bitTime * bits * newBT := Nat.mul_le_mul_right newBT (hlength ▸ hrem)
    _ = bitTime * (newBT * bits) := by ring

/-- A rescale at the stimulus's own time keeps the fraction (R54). -/
theorem rescale_keepsFraction (newBT : Nat) {s : State}
    (hlength : s.tx.txFrameCycles = s.tx.txBitTime * s.tx.shiftBits) (hpos : 0 < s.tx.txBitTime) :
    KeepsFraction s (rescale s.side.now newBT s) := by
  by_cases hsame : newBT = s.tx.txBitTime
  · rw [rescale_unchanged _ hsame]
    exact .refl hlength hpos
  cases hexact : s.cfg.cycleExact
  · rw [rescale_accumulating _ hsame hexact]
    refine ⟨rfl, rfl, by simp [hexact], by simp [hexact], fun _ => ?_⟩
    have hfits := ceilDiv_remainder_le newBT hpos hlength (Nat.sub_le s.tx.txFrameCycles s.tx.txAccum)
    simp only [Nat.sub_sub_self hfits]
    exact .of_ceilDiv hpos _ _
  rcases Nat.eq_zero_or_pos s.tx.breakTxCounter with hwindow | hwindow
  · rw [rescale_live _ hsame hexact hwindow]
    refine ⟨rfl, rfl, fun _ _ => ?_, by simp [hwindow], by simp [hexact]⟩
    simp only [Nat.add_sub_cancel_left]
    exact .of_ceilDiv hpos _ _
  · rw [rescale_frozen _ hsame hexact hwindow]
    exact ⟨rfl, rfl, by simp [hwindow.ne'], fun _ _ => .of_ceilDiv hpos _ _, by simp [hexact]⟩

/-- The period group is no part of the frame in the shifter, so a write of the period keeps the fraction (R54, R55). -/
theorem writePeriod_keepsFraction (w : Reg) {s : State} (h : ShifterInv s) (hdraining : s.tx.shiftState = .draining) :
    KeepsFraction s (writePeriod w s) := by
  have hpos : 0 < s.tx.txBitTime := h.bitTime (by simp [hdraining])
  by_cases hrepeated : s.baud.periodSet = true ∧ s.baud.period = w
  · obtain ⟨hset, rfl⟩ := hrepeated
    rw [writePeriod_repeated hset]
    exact .refl h.length hpos
  · rw [writePeriod_effective hrepeated, if_pos hdraining]
    obtain ⟨hbits, hlength, hlive, hfrozen, haccum⟩ :=
      rescale_keepsFraction (s := setPeriod w s) (w.toNat % 2 ^ 15 + 1) h.length hpos
    exact ⟨hbits, hlength, hlive, hfrozen, haccum⟩

/-- Settles O25: `writePeriod_keepsFraction`. -/
theorem rescaleNeverShortensTheRemainder : Obligations.RescaleNeverShortensTheRemainder := by
  intro w s t hinv hdraining h
  cases h
  obtain ⟨hbits, hlength, hlive, hfrozen, haccum⟩ := writePeriod_keepsFraction w hinv hdraining
  exact ⟨hbits, hlength, hlive, hfrozen, haccum⟩

end Sys2Proof.Machine

/-! What the transmit stimuli leave alone (R55, R64, R65, R67, R68). -/

namespace Sys2Proof.Machine

/-- The receiver, its interrupt bookkeeping, the lines, the configuration and the returned values are the same in both
states. -/
structure OffReceiver (s t : State) : Prop where
  rx : t.rx = s.rx
  irq : t.irq = s.irq
  lines : t.lines = s.lines
  cfg : t.cfg = s.cfg
  returned : t.returned = s.returned

theorem OffReceiver.refl (s : State) : OffReceiver s s := ⟨rfl, rfl, rfl, rfl, rfl⟩

theorem OffReceiver.trans {s t u : State} (h1 : OffReceiver s t) (h2 : OffReceiver t u) : OffReceiver s u :=
  ⟨h2.rx.trans h1.rx, h2.irq.trans h1.irq, h2.lines.trans h1.lines, h2.cfg.trans h1.cfg,
    h2.returned.trans h1.returned⟩

theorem TxFrame.offReceiver {s t : State} (h : TxFrame s t) : OffReceiver s t :=
  ⟨h.rx, h.irq, h.lines, h.cfg, h.returned⟩

/-- A rescale writes the transmit group and the history, in each of its cases. -/
theorem rescale_offReceiver (t newBT : Nat) (s : State) : OffReceiver s (rescale t newBT s) := by
  by_cases hsame : newBT = s.tx.txBitTime
  · rw [rescale_unchanged t hsame]
    exact .refl s
  cases hexact : s.cfg.cycleExact
  · rw [rescale_accumulating t hsame hexact]
    exact ⟨rfl, rfl, rfl, rfl, rfl⟩
  rcases Nat.eq_zero_or_pos s.tx.breakTxCounter with hwindow | hwindow
  · rw [rescale_live t hsame hexact hwindow]
    exact ⟨rfl, rfl, rfl, rfl, rfl⟩
  · rw [rescale_frozen t hsame hexact hwindow]
    exact ⟨rfl, rfl, rfl, rfl, rfl⟩

theorem writePeriod_offReceiver (w : Reg) (s : State) : OffReceiver s (writePeriod w s) := by
  have hset : OffReceiver s (setPeriod w s) := ⟨rfl, rfl, rfl, rfl, rfl⟩
  rcases writePeriod_cases w s with h | h | ⟨-, h⟩ <;> rw [h]
  · exact .refl s
  · exact hset
  · exact hset.trans (rescale_offReceiver _ _ _)

theorem held_offReceiver (w : Reg) (s : State) : OffReceiver s (held w s) := by
  unfold held
  simp only []
  split
  · exact ⟨rfl, rfl, rfl, rfl, rfl⟩
  · exact ⟨rfl, rfl, rfl, rfl, rfl⟩

theorem writeData_offReceiver (w : Reg) (s : State) : OffReceiver s (writeData w s) := by
  rw [writeData_eq]
  split
  · exact (held_offReceiver w s).trans (load_frame _ _).offReceiver
  · exact held_offReceiver w s

theorem assertBreak_offReceiver (s : State) : OffReceiver s (assertBreak s) := by
  rcases assertBreak_cases s with h | ⟨-, h⟩ | ⟨-, rem, h⟩ <;> rw [h]
  · exact .refl s
  · exact ⟨rfl, rfl, rfl, rfl, rfl⟩
  · exact ⟨rfl, rfl, rfl, rfl, rfl⟩

theorem clearBreak_offReceiver (s : State) : OffReceiver s (clearBreak s) := ⟨rfl, rfl, rfl, rfl, rfl⟩

/-- Settles O60, stimulus by stimulus. -/
theorem transmitStimuliLeaveTheReceiver : Obligations.TransmitStimuliLeaveTheReceiver := by
  intro i s t h htransmit
  have hkept : OffReceiver s t := by
    rcases htransmit with ⟨w, rfl⟩ | ⟨w, rfl⟩ | rfl | rfl | rfl <;> cases h
    · exact writePeriod_offReceiver w s
    · exact writeData_offReceiver w s
    · exact (fireTxDone_frame s).offReceiver
    · exact assertBreak_offReceiver s
    · exact clearBreak_offReceiver s
  obtain ⟨hrx, hirq, hlines, hcfg, hreturned⟩ := hkept
  exact ⟨hrx, hirq, hlines, hcfg, hreturned⟩

end Sys2Proof.Machine

/-! The load in the terms of the statements (R57, R58, R59), and `WSERDAT` (R64). -/

namespace Sys2Proof.Machine

theorem dataByte_eq (w : Reg) : dataByte w = BitVec.ofNat 8 w.toNat := by
  apply BitVec.eq_of_toNat_eq
  simp [dataByte]

theorem loadFrame_eq (s : State) : loadFrame s =
    (s.baud.period.toNat % 2 ^ 15 + 1) * (if s.baud.period.getLsbD 15 then 11 else 10) := by
  rw [loadFrame, rateCount_eq, frameBits_eq, ninebit]

/-- The bytes of a frame, by the mode and the word (R58). -/
theorem frame_eq (w : Reg) (nine : Bool) (s : State) : frame w nine s =
    if nine then [s.par.syncBase ||| (if w.getLsbD 8 then 1 else 0), BitVec.ofNat 8 w.toNat]
    else if s.cfg.crlf = true ∧ (BitVec.ofNat 8 w.toNat : Byte) = 0x0A ∧ s.tx.lastSent ≠ some 0x0D then [0x0D, 0x0A]
    else [BitVec.ofNat 8 w.toNat] := by
  rw [← dataByte_eq]
  cases nine
  · simp [frame, and_assoc]
  · rfl

theorem loadTx_eq_loadedTx (s : State) : loadTx s.side.now s = loadedTx s.tx.lastSent s := by
  simp only [loadTx, loadEcho, frame_eq, loadFrame_eq, rateCount_eq, frameBits_eq]
  rfl

theorem loadEvents_eq_loadedEvents (s : State) : loadEvents s.side.now s = loadedEvents s := by
  simp only [loadEvents, loadEcho, loadFrame_eq]
  rfl

/-- A load at the stimulus's cycle, in plain fields. -/
theorem load_eq_loaded (s : State) : load s.side.now s =
    { s with tx := loadedTx s.tx.lastSent s, history := s.history ++ loadedEvents s } := by
  rw [load_eq, loadTx_eq_loadedTx, loadEvents_eq_loadedEvents]

/-- The word held, with the log of one it overwrote (R64). -/
theorem held_eq (w : Reg) (s : State) : held w s = { s with
    tx := { s.tx with holding := w, dataPending := true }
    history := s.history ++ (if s.tx.dataPending then [eventEntry s (.log .holdingOverwritten)] else []) } := by
  unfold held
  cases s.tx.dataPending
  · simp
  · rfl

theorem exec_wserdat (w : Reg) (s : State) : exec (.wserdat w) s = .next (writeData w s) := rfl

theorem writeData_busy (w : Reg) {s : State} (hbusy : s.tx.shiftState ≠ .empty) : writeData w s = held w s := by
  rw [writeData_eq, if_neg (by rw [held_tx]; exact hbusy)]

theorem writeData_empty (w : Reg) {s : State} (hempty : s.tx.shiftState = .empty) :
    writeData w s = load (now (held w s)) (held w s) := by
  rw [writeData_eq, if_pos (by rw [held_tx]; exact hempty)]

/-- Settles O26: a busy shifter leaves the word held. -/
theorem wserdatIntoABusyShifterIsHeld : Obligations.WserdatIntoABusyShifterIsHeld := by
  intro w s hbusy
  rw [exec_wserdat, writeData_busy w hbusy, held_eq]

/-- Settles O27: the held word is loaded at once. -/
theorem wserdatIntoAnEmptyShifterLoads : Obligations.WserdatIntoAnEmptyShifterLoads := by
  intro w s hempty nine bits bitTime frameCycles due done byte bytes echo looped live frozen
  rw [exec_wserdat, writeData_empty w hempty, now_eq, load_eq_loaded, held_eq]
  simp only [loadedEvents, List.append_assoc]
  rfl

end Sys2Proof.Machine

/-! Firings that are not valid (R99). -/

namespace Sys2Proof.Machine

theorem exec_fireTxDone (s : State) : exec .fireTxDone s = .next (fireTxDone s) := rfl

theorem exec_fireLoopbackRx (s : State) : exec .fireLoopbackRx s = .next (fireLoopback s) := rfl

/-- The checks of R99 on a `LOOPBACK_RX` callback, in plain fields. -/
theorem callbackValid_loopbackRx_iff (s : State) :
    callbackValid .loopbackRx s = true ↔ s.side.g = s.session.gen ∧ s.session.transport = .loopback ∧
      ∃ e rest, s.tx.loopQueue = e :: rest ∧ e.due ≤ s.side.now := by
  cases hq : s.tx.loopQueue <;> simp [callbackValid, loopbackValid, hq]

/-- A firing of `LOOPBACK_RX` does nothing unless its callback is valid (R83, R99). -/
theorem fireLoopback_of_invalid {s : State} (hinvalid : callbackValid .loopbackRx s = false) : fireLoopback s = s := by
  rw [← Bool.not_eq_true, callbackValid_loopbackRx_iff] at hinvalid
  unfold fireLoopback
  split
  · rfl
  · next hgen =>
    split
    · rfl
    · next hloop =>
      split
      · rfl
      · next e rest hq =>
        have hearly : now s < e.due := by
          by_contra hdue
          exact hinvalid ⟨not_not.mp hgen, not_not.mp hloop, e, rest, hq, Nat.le_of_not_lt hdue⟩
        rw [if_pos hearly]

/-- A valid firing of `LOOPBACK_RX` delivers the head of the queue and requests the next callback (R83). -/
theorem fireLoopback_of_valid {s : State} {e : Echo} {rest : List Echo} (hgen : s.side.g = s.session.gen)
    (hloop : s.session.transport = .loopback) (hq : s.tx.loopQueue = e :: rest) (hdue : e.due ≤ s.side.now) :
    fireLoopback s = scheduleNextEcho (deliver e.word { s with tx := { s.tx with loopQueue := rest } }) := by
  simp [fireLoopback, hgen, hloop, hq, Nat.not_lt.mpr hdue]

/-- Settles O28: the conditions are those of `callbackValid` for each kind. -/
theorem invalidFiringIsNoOp : Obligations.InvalidFiringIsNoOp := by
  intro s
  refine ⟨fun hinvalid => ?_, fun hinvalid => ?_⟩
  · rw [← callbackValid_txDone_iff] at hinvalid
    rw [exec_fireTxDone, fireTxDone_eq, if_neg hinvalid]
  · rw [← callbackValid_loopbackRx_iff, Bool.not_eq_true] at hinvalid
    rw [exec_fireLoopbackRx, fireLoopback_of_invalid hinvalid]

end Sys2Proof.Machine

/-! The break generator's two stimuli (R67, R68). -/

namespace Sys2Proof.Machine

theorem exec_setbrk (s : State) : exec .setbrk s = .next (assertBreak s) := rfl

theorem exec_clrbrk (s : State) : exec .clrbrk s = .next (clearBreak s) := rfl

/-- The start of a window, in full: in cycle-exact mode what remains of the frame is frozen (R67). -/
theorem startBreakWindow_eq (s : State) : startBreakWindow s = { s with tx := { s.tx with
    breakTxCounter := s.par.breakTxLines
    txFrozenRem := if s.cfg.cycleExact = true ∧ s.tx.shiftState = .draining then s.tx.txDoneAt - s.side.now
      else s.tx.txFrozenRem } } := by
  by_cases hfreezes : s.cfg.cycleExact = true ∧ s.tx.shiftState = .draining
  · simp [startBreakWindow, hfreezes]
  · have hguard : (s.cfg.cycleExact && decide (s.tx.shiftState = .draining)) = false := by simpa using hfreezes
    simp [startBreakWindow, hfreezes, hguard]

theorem assertBreak_repeated {s : State} (hasserted : s.tx.txBreakAsserted = true) : assertBreak s = s := by
  rw [assertBreak, if_pos hasserted]

/-- An assertion while a window runs starts no other (R67). -/
theorem assertBreak_in_window {s : State} (hrearmed : s.tx.txBreakAsserted = false)
    (hwindow : 0 < s.tx.breakTxCounter) : assertBreak s = { s with
      tx := { s.tx with txBreakAsserted := true }
      history := s.history ++ [eventEntry s (.log .breakOn)] } := by
  simp [assertBreak, hrearmed, hwindow, logReason, emit, eventEntry]

/-- An assertion with no window running starts one (R67). -/
theorem assertBreak_starts {s : State} (hrearmed : s.tx.txBreakAsserted = false) (hwindow : s.tx.breakTxCounter = 0) :
    assertBreak s = startBreakWindow { s with
      tx := { s.tx with txBreakAsserted := true }
      history := s.history ++ [eventEntry s (.log .breakOn)] } := by
  simp [assertBreak, hrearmed, hwindow, logReason, emit, eventEntry]

theorem clearBreak_eq (s : State) : clearBreak s = { s with
    tx := { s.tx with txBreakAsserted := false }
    history := s.history ++ [eventEntry s (.log .breakOff)] } := rfl

/-- Settles O33: one equation for each form of the assertion. -/
theorem setbrkStartsAtMostOneWindow : Obligations.SetbrkStartsAtMostOneWindow := by
  intro s
  refine ⟨by decide, fun hasserted => ?_, fun hrearmed hwindow => ?_, fun hrearmed hwindow => ?_⟩
  · rw [exec_setbrk, assertBreak_repeated hasserted]
  · rw [exec_setbrk, assertBreak_in_window hrearmed hwindow]
  · rw [exec_setbrk, assertBreak_starts hrearmed hwindow, startBreakWindow_eq]

/-- Settles O34: `clearBreak_eq`. -/
theorem clrbrkOnlyRearms : Obligations.ClrbrkOnlyRearms := by
  intro s
  exact ⟨by decide, by rw [exec_clrbrk, clearBreak_eq]⟩

end Sys2Proof.Machine

/-! A stimulus that brings a frame to its end (R60 to R63, R65): with no backend, and on one, by its answers. -/

namespace Sys2Proof.Machine

/-! With no backend -/

/-- What `HandsOver` leaves of what the frame's end reads. -/
structure FrameKept (s r : State) : Prop where
  baud : r.baud = s.baud
  side : r.side = s.side
  par : r.par = s.par
  cfg : r.cfg = s.cfg
  gen : r.session.gen = s.session.gen
  transport : r.session.transport = s.session.transport
  emitBuf : r.tx.emitBuf = s.tx.emitBuf
  emitIdx : r.tx.emitIdx = s.tx.emitIdx
  dataPending : r.tx.dataPending = s.tx.dataPending
  holding : r.tx.holding = s.tx.holding
  lastSent : r.tx.lastSent = s.tx.lastSent
  loopQueue : r.tx.loopQueue = s.tx.loopQueue
  txDoneAt : r.tx.txDoneAt = s.tx.txDoneAt
  txFrozenRem : r.tx.txFrozenRem = s.tx.txFrozenRem
  window : r.tx.breakTxCounter = 0 ↔ s.tx.breakTxCounter = 0
  writeAvailables : r.script.writeAvailables = s.script.writeAvailables
  writes : r.script.writes = s.script.writes

theorem HandsOver.frameKept {i : Instr} {s r : State} (h : HandsOver i s r) : FrameKept s r := by
  obtain ⟨baud, side, par, cfg, gen, transport, emitBuf, emitIdx, dataPending, holding, lastSent, loopQueue, txDoneAt,
    txFrozenRem, window, writeAvailables, writes, -⟩ := handsOver_keeps h
  exact ⟨baud, side, par, cfg, gen, transport, emitBuf, emitIdx, dataPending, holding, lastSent, loopQueue, txDoneAt,
    txFrozenRem, window, writeAvailables, writes⟩

theorem FrameKept.lastByte_eq {s r : State} (h : FrameKept s r) : lastByte r = lastByte s := by
  simp only [lastByte, h.emitBuf, h.lastSent]

/-- The word loaded at the frame's end is that of the stimulus's state; the holding register, the accumulator and the
break generator are as the stimulus leaves them. -/
theorem FrameKept.loadedTx_eq {s r : State} (h : FrameKept s r) : loadedTx (lastByte r) r =
    { loadedTx (lastByte s) s with
      holding := r.tx.holding
      txAccum := r.tx.txAccum
      txBreakAsserted := r.tx.txBreakAsserted
      breakTxCounter := r.tx.breakTxCounter } := by
  simp only [loadedTx, h.lastByte_eq, h.baud, h.side, h.par, h.cfg, h.transport, h.holding, h.loopQueue, h.txDoneAt,
    h.txFrozenRem, h.window, Nat.pos_iff_ne_zero, ne_eq]

theorem FrameKept.loadedEvents_eq {s r : State} (h : FrameKept s r) : loadedEvents r = loadedEvents s := by
  simp only [loadedEvents, eventEntry, h.baud, h.side, h.par, h.cfg, h.gen, h.transport, h.loopQueue, h.window]

theorem frameEnded_idle {s : State} (hpending : s.tx.dataPending = false) : frameEnded s = { s with tx := { s.tx with
    lastSent := lastByte s
    shiftState := .empty, shiftReg := 0, shiftBits := 0, txBitTime := 0, txFrameCycles := 0,
    emitBuf := [], emitIdx := 0, txAccum := 0 } } := by
  simp [frameEnded, hpending]

theorem frameEnded_loads {s : State} (hpending : s.tx.dataPending = true) : frameEnded s =
    { s with tx := loadedTx (lastByte s) s, history := s.history ++ loadedEvents s } := by
  simp [frameEnded, hpending]

/-- Settles O29: the stimulus is `frameEnded`, and no word waits. -/
theorem txDoneWithoutBackendEndsTheFrame : Obligations.TxDoneWithoutBackendEndsTheFrame := by
  intro i s r hends hclosed hpending
  have hkept := hends.frameKept
  rw [handsOver_closed hends hclosed, frameEnded_idle (hkept.dataPending.trans hpending), hkept.lastByte_eq]
  rfl

/-- Settles O32: the stimulus is `frameEnded`, and the waiting word is loaded. -/
theorem frameEndPullsTheWaitingWord : Obligations.FrameEndPullsTheWaitingWord := by
  intro i s r hends hclosed hpending w nine bits bitTime frameCycles due done byte last bytes echo looped live frozen
  have hkept := hends.frameKept
  rw [handsOver_closed hends hclosed, frameEnded_loads (hkept.dataPending.trans hpending), hkept.loadedTx_eq,
    hkept.loadedEvents_eq]
  simp only [loadedEvents, List.append_assoc]
  rfl

/-! On a backend: `TryEmit` by the answers lined up (R61) -/

theorem writeAvailableAnswer_of_script {s : State} {a : Answer Bool} {more : List (Answer Bool)}
    (h : s.script.writeAvailables = a :: more) : writeAvailableAnswer s = a := by
  simp [writeAvailableAnswer, h, drawn]

theorem writeAnswer_of_script {s : State} {a : Answer Nat} {more : List (Answer Nat)} (bytes : List Byte)
    (h : s.script.writes = a :: more) : writeAnswer bytes s = boundCount bytes.length a := by
  simp [writeAnswer, h, drawn]

/-- The question for room, answered `a` (R94). -/
def askedRoom (a : Answer Bool) (more : List (Answer Bool)) (s : State) : State := { s with
  script := { s.script with writeAvailables := more }
  draws := s.draws + 1
  history := s.history ++ [callEntry s (.writeAvailable (s.tx.emitBuf.drop s.tx.emitIdx).length a)] }

theorem calledWriteAvailable_of_script {s : State} {a : Answer Bool} {more : List (Answer Bool)}
    (h : s.script.writeAvailables = a :: more) :
    calledWriteAvailable (s.tx.emitBuf.drop s.tx.emitIdx).length s = askedRoom a more s := by
  simp only [calledWriteAvailable, writeAvailableAnswer_of_script h, h]
  rfl

/-- The write of the bytes left, after the question for room, answered `a` (R94). -/
def askedWrite (a : Answer Nat) (more : List (Answer Bool)) (moreWrites : List (Answer Nat)) (s : State) : State :=
  { s with
    script := { s.script with writeAvailables := more, writes := moreWrites }
    draws := s.draws + 2
    history := s.history ++ [callEntry s (.writeAvailable (s.tx.emitBuf.drop s.tx.emitIdx).length (.value true)),
      callEntry s (.write (s.tx.emitBuf.drop s.tx.emitIdx) a)] }

theorem calledWrite_of_script {s : State} {a : Answer Nat} {more : List (Answer Bool)} {moreWrites : List (Answer Nat)}
    (h : s.script.writes = a :: moreWrites) :
    calledWrite (s.tx.emitBuf.drop s.tx.emitIdx) (askedRoom (.value true) more s) =
      askedWrite (boundCount (s.tx.emitBuf.drop s.tx.emitIdx).length a) more moreWrites s := by
  have hscript : (askedRoom (.value true) more s).script.writes = a :: moreWrites := h
  simp only [calledWrite, writeAnswer_of_script _ hscript, hscript]
  simp [called, askedRoom, askedWrite, callEntry]

/-- Back-pressure (R61). -/
theorem tryEmit_noRoom (t : Nat) {s : State} {more : List (Answer Bool)}
    (hroom : s.script.writeAvailables = .value false :: more) :
    tryEmit t s = stall (askedRoom (.value false) more s) := by
  simp only [tryEmit, writeAvailableAnswer_of_script hroom, calledWriteAvailable_of_script hroom]

/-- A Failure of the question for room ends the frame (R61, R95). -/
theorem tryEmit_roomFails (t : Nat) {s : State} {more : List (Answer Bool)}
    (hroom : s.script.writeAvailables = .failure :: more) :
    tryEmit t s = finish t (transportFailed (askedRoom .failure more s)) := by
  simp only [tryEmit, writeAvailableAnswer_of_script hroom, calledWriteAvailable_of_script hroom]

theorem tryEmit_room (t : Nat) {s : State} {more : List (Answer Bool)}
    (hroom : s.script.writeAvailables = .value true :: more) :
    tryEmit t s = writeRest t (s.tx.emitBuf.drop s.tx.emitIdx) (askedRoom (.value true) more s) := by
  simp only [tryEmit, writeAvailableAnswer_of_script hroom, calledWriteAvailable_of_script hroom]

/-- A Failure of the write ends the frame (R61, R95). -/
theorem tryEmit_writeFails (t : Nat) {s : State} {more : List (Answer Bool)} {moreWrites : List (Answer Nat)}
    (hroom : s.script.writeAvailables = .value true :: more) (hwrite : s.script.writes = .failure :: moreWrites) :
    tryEmit t s = finish t (transportFailed (askedWrite .failure more moreWrites s)) := by
  have hscript : (askedRoom (.value true) more s).script.writes = .failure :: moreWrites := hwrite
  rw [tryEmit_room t hroom, writeRest_failure t _ _ (writeAnswer_of_script _ hscript), calledWrite_of_script hwrite]
  rfl

/-- The state when the backend has taken `m` of the bytes left (R61). -/
def tookBytes (m : Nat) (more : List (Answer Bool)) (moreWrites : List (Answer Nat)) (s : State) : State :=
  let asked := askedWrite (.value m) more moreWrites s
  { asked with
    tx := { s.tx with emitIdx := s.tx.emitIdx + m }
    history := asked.history ++ [eventEntry s (.write (s.tx.emitBuf.drop s.tx.emitIdx) m)] }

/-- A write of `n` bytes, cut to those left, stalls the frame or ends it (R61, R94). -/
theorem tryEmit_writes (t : Nat) {s : State} {more : List (Answer Bool)} {n : Nat} {moreWrites : List (Answer Nat)}
    (hroom : s.script.writeAvailables = .value true :: more) (hwrite : s.script.writes = .value n :: moreWrites) :
    let taken := tookBytes (min n (s.tx.emitBuf.drop s.tx.emitIdx).length) more moreWrites s
    tryEmit t s = if taken.tx.emitIdx < s.tx.emitBuf.length then stall taken else finish t taken := by
  intro taken
  have hscript : (askedRoom (.value true) more s).script.writes = .value n :: moreWrites := hwrite
  have hwrote : wrote (s.tx.emitBuf.drop s.tx.emitIdx) (min n (s.tx.emitBuf.drop s.tx.emitIdx).length)
      (askedRoom (.value true) more s) = taken := by
    simp only [wrote, calledWrite_of_script hwrite]
    rfl
  rw [tryEmit_room t hroom, writeRest_value t _ _ _ (writeAnswer_of_script _ hscript), hwrote]
  rfl

/-- A write of fewer bytes than are left stalls the frame (R61). -/
theorem tryEmit_partial (t : Nat) {s : State} {more : List (Answer Bool)} {n : Nat} {moreWrites : List (Answer Nat)}
    (hroom : s.script.writeAvailables = .value true :: more) (hwrite : s.script.writes = .value n :: moreWrites)
    (hpartial : n < (s.tx.emitBuf.drop s.tx.emitIdx).length) :
    tryEmit t s = stall (tookBytes n more moreWrites s) := by
  have hleft : s.tx.emitIdx + n < s.tx.emitBuf.length := by
    rw [List.length_drop] at hpartial
    omega
  have hemit := tryEmit_writes t hroom hwrite
  rw [Nat.min_eq_left hpartial.le] at hemit
  exact hemit.trans (if_pos hleft)

/-- A write of all the bytes left ends the frame (R61); the count of bytes written goes with it. -/
theorem tryEmit_full (t : Nat) {s : State} {more : List (Answer Bool)} {n : Nat} {moreWrites : List (Answer Nat)}
    (hroom : s.script.writeAvailables = .value true :: more) (hwrite : s.script.writes = .value n :: moreWrites)
    (hfull : (s.tx.emitBuf.drop s.tx.emitIdx).length ≤ n) (hidx : s.tx.emitIdx ≤ s.tx.emitBuf.length) :
    tryEmit t s = finish t { tookBytes (s.tx.emitBuf.drop s.tx.emitIdx).length more moreWrites s with tx := s.tx } := by
  have hnone : ¬ s.tx.emitIdx + (s.tx.emitBuf.drop s.tx.emitIdx).length < s.tx.emitBuf.length := by
    rw [List.length_drop]
    omega
  have hemit := tryEmit_writes t hroom hwrite
  rw [Nat.min_eq_right hfull] at hemit
  exact (hemit.trans (if_neg hnone)).trans (finish_emitIdx t _ { tookBytes _ more moreWrites s with tx := s.tx })

/-! The stimulus on a backend -/

theorem FrameKept.callEntry_eq {s r : State} (h : FrameKept s r) : callEntry r = callEntry s := by
  funext x
  simp only [callEntry, h.side]

theorem FrameKept.eventEntry_eq {s r : State} (h : FrameKept s r) : eventEntry r = eventEntry s := by
  funext e
  simp only [eventEntry, h.side]

theorem frameEnded_withRx (x : Rx) (s : State) : frameEnded { s with rx := x } = { frameEnded s with rx := x } := by
  cases hpending : s.tx.dataPending
  · rw [frameEnded_idle hpending, frameEnded_idle (s := { s with rx := x }) hpending]
    rfl
  · rw [frameEnded_loads hpending, frameEnded_loads (s := { s with rx := x }) hpending]
    rfl

/-- Where `TryEmit` stalls, the stimulus leaves no more than that. -/
theorem handsOver_stalls {i : Instr} {s r q : State} (hends : HandsOver i s r)
    (hext : r.session.transport.external = true) (hav : r.session.available = true)
    (hemit : tryEmit s.side.now r = stall q) (hsession : q.session = r.session) (hrx : q.rx = r.rx) :
    exec i s = .next (stall q) := by
  rw [handsOver_open hends hext hav, hemit, stall_session, hsession, if_pos hav, ← hrx]
  rfl

theorem frameEnded_session (s : State) : (frameEnded s).session = s.session := by
  cases hpending : s.tx.dataPending
  · rw [frameEnded_idle hpending]
  · rw [frameEnded_loads hpending]

theorem FrameKept.finish_eq {s r q : State} (h : FrameKept s r) (hside : q.side = r.side) :
    finish s.side.now q = frameEnded q := by
  rw [← finish_eq_frameEnded, hside, h.side]

/-- Where `TryEmit` ends the frame on a backend that stays, the stimulus does no more than that. -/
theorem handsOver_finishes {i : Instr} {s r q : State} (hends : HandsOver i s r)
    (hext : r.session.transport.external = true) (hav : r.session.available = true)
    (hemit : tryEmit s.side.now r = finish s.side.now q) (hside : q.side = r.side) (hsession : q.session = r.session)
    (hrx : q.rx = r.rx) : exec i s = .next (frameEnded q) := by
  rw [handsOver_open hends hext hav, hemit, hends.frameKept.finish_eq hside, frameEnded_session, hsession, if_pos hav,
    ← hrx]
  exact congrArg _ (frameEnded_withRx q.rx q).symm

theorem transportFailed_eq (s : State) : transportFailed s = { s with
    session := { s.session with available := false }
    history := s.history ++ [eventEntry s (.log .transportFailed)] } := rfl

/-- Where `TryEmit` ends the frame as it loses the backend, `rxPrefix` is the one before the stimulus (R73, R90). -/
theorem handsOver_loses {i : Instr} {s r q : State} (hends : HandsOver i s r)
    (hext : r.session.transport.external = true) (hav : r.session.available = true)
    (hemit : tryEmit s.side.now r = finish s.side.now (transportFailed q)) (hside : q.side = r.side) :
    exec i s = .next (frameEnded { transportFailed q with rx := { r.rx with rxPrefix := s.rx.rxPrefix } }) := by
  rw [handsOver_open hends hext hav, hemit, hends.frameKept.finish_eq (q := transportFailed q) hside,
    frameEnded_session, transportFailed_session, if_neg Bool.false_ne_true]
  exact congrArg _ (frameEnded_withRx _ (transportFailed q)).symm

/-- Settles O30: the two answers at which `TryEmit` stalls. -/
theorem txDoneUnderBackPressureStalls : Obligations.TxDoneUnderBackPressureStalls := by
  intro i s r hends hext hav rest
  have hkept := hends.frameKept
  refine ⟨fun more hroom => ?_, fun more n moreWrites hroom hwrite hpartial => ?_⟩
  · have hemit := tryEmit_noRoom s.side.now (hkept.writeAvailables.trans hroom)
    rw [handsOver_stalls hends hext hav hemit rfl rfl, askedRoom, hkept.callEntry_eq, hkept.emitBuf, hkept.emitIdx]
    rfl
  · have hemit := tryEmit_partial s.side.now (hkept.writeAvailables.trans hroom) (hkept.writes.trans hwrite)
      (by rw [hkept.emitBuf, hkept.emitIdx]; exact hpartial)
    rw [handsOver_stalls hends hext hav hemit rfl rfl, tookBytes, askedWrite, hkept.callEntry_eq, hkept.eventEntry_eq,
      hkept.emitBuf, hkept.emitIdx]
    simp only [List.append_assoc]
    rfl

/-- Settles O31: the three answers at which `TryEmit` ends the frame. -/
theorem txDoneOnABackendWritesTheFrame : Obligations.TxDoneOnABackendWritesTheFrame := by
  intro i s r hends hext hav hidx rest
  have hkept := hends.frameKept
  have hrest : r.tx.emitBuf.drop r.tx.emitIdx = rest := by rw [hkept.emitBuf, hkept.emitIdx]
  refine ⟨fun more n moreWrites hroom hwrite hfull => ?_, fun more hroom => ?_, fun more moreWrites hroom hwrite => ?_⟩
  · have hemit := tryEmit_full s.side.now (hkept.writeAvailables.trans hroom) (hkept.writes.trans hwrite)
      (by rw [hrest]; exact hfull) (by rw [hkept.emitBuf, hkept.emitIdx]; exact hidx)
    rw [handsOver_finishes hends hext hav hemit rfl rfl rfl, tookBytes, askedWrite, hkept.callEntry_eq,
      hkept.eventEntry_eq, hrest]
    simp only [List.append_assoc]
    rfl
  · have hemit := tryEmit_roomFails s.side.now (hkept.writeAvailables.trans hroom)
    rw [handsOver_loses hends hext hav hemit rfl, transportFailed_eq, askedRoom, hkept.callEntry_eq, hrest]
    simp only [List.append_assoc, eventEntry, hkept.side]
    rfl
  · have hemit := tryEmit_writeFails s.side.now (hkept.writeAvailables.trans hroom) (hkept.writes.trans hwrite)
    rw [handsOver_loses hends hext hav hemit rfl, transportFailed_eq, askedWrite, hkept.callEntry_eq, hrest]
    simp only [List.append_assoc, eventEntry, hkept.side]
    rfl

end Sys2Proof.Machine

/-! The tick's transmit group, window and accumulators (R60 to R63, R69, R90, R91). -/

namespace Sys2Proof.Machine

theorem exec_tick (lc : Nat) (s : State) : exec (.tick lc) s = .next (tickBody lc s) := rfl

/-- A tick ends with the break timer, on a state whose transmit group the transmit part has left (R90). -/
theorem tickBody_endsWith (lc : Nat) (s : State) :
    ∃ r, OffTransmit (txTick s.side.now lc (beforeTx s)) r ∧ tickBody lc s = breakTxTick s.side.now r :=
  ⟨_, (tickRx_offTransmit _ _ _ _).trans (rxBreakTick_offTransmit _), tickBody_eq_parts lc s⟩

/-! The receive accumulator -/

/-- The accumulator crosses at most once (R91). -/
theorem tickRx_rxAccum (lc count : Nat) (brk : Bool) (s : State) :
    (tickRx lc count brk s).rx.rxAccum = accumulatedTo lc s := by
  by_cases hcrosses : Crosses lc s
  · rw [tickRx_crossing lc count brk s hcrosses, (rxStep_frame _ _ _).accum, accumulatedTo, if_pos hcrosses]
    rfl
  · rw [tickRx_waiting lc count brk s hcrosses, accumulatedTo, if_neg hcrosses]
    rfl

theorem tickBody_rxAccum (lc : Nat) (s : State) : (tickBody lc s).rx.rxAccum = accumulatedTo lc s := by
  have htx := (txTick_frame s.side.now lc (beforeTx s))
  have hbefore : RxFrame s (beforeTx s) := beforeTx_frame _ s
  rw [tickBody_eq_parts, (breakTxTick_frame _ _).rx, (rxBreakTick_frame _).accum, tickRx_rxAccum]
  simp only [accumulatedTo, Crosses, htx.rx, htx.baud, hbefore.accum, hbefore.baud]

/-! What the transmit part keeps -/

theorem txTick_breakTxCounter (t lc : Nat) (s : State) : (txTick t lc s).tx.breakTxCounter = s.tx.breakTxCounter := by
  rcases txTick_cases t lc s with ⟨-, h⟩ | ⟨-, -, -, -, h⟩ | ⟨-, -, -, -, h⟩ | ⟨-, -, h⟩ <;> rw [h]
  · exact complete_breakTxCounter t s
  · rw [complete_breakTxCounter]

theorem finish_loopQueue (t : Nat) {s : State} (hloop : s.session.transport ≠ .loopback) :
    (finish t s).tx.loopQueue = s.tx.loopQueue := by
  cases hpending : s.tx.dataPending
  · rw [finish_idle t s hpending]
    rfl
  · rw [finish_loads t s hpending, load_tx]
    exact if_neg hloop

theorem complete_loopQueue (t : Nat) {s : State} (hloop : s.session.transport ≠ .loopback) :
    (complete t s).tx.loopQueue = s.tx.loopQueue := by
  rcases complete_cases t s with h | ⟨-, -, h⟩ <;> rw [h]
  · exact finish_loopQueue t hloop
  · obtain ⟨r, hr, h | h⟩ := tryEmit_cases t s <;> rw [h]
    · rw [stall_tx, hr.tx]
    · rw [finish_loopQueue t (by rw [hr.transport]; exact hloop), hr.tx]

/-- Only Loopback queues echoes (R59). -/
theorem txTick_loopQueue (t lc : Nat) {s : State} (hloop : s.session.transport ≠ .loopback) :
    (txTick t lc s).tx.loopQueue = s.tx.loopQueue := by
  rcases txTick_cases t lc s with ⟨-, h⟩ | ⟨-, -, -, -, h⟩ | ⟨-, -, -, -, h⟩ | ⟨-, -, h⟩ <;> rw [h]
  · exact complete_loopQueue t hloop
  · exact complete_loopQueue t (s := { s with tx := { s.tx with txAccum := _ } }) hloop

/-- The break timer leaves the echoes and the frame's accumulator alone (R69). -/
theorem breakTxTick_loopQueue_txAccum (t : Nat) (s : State) :
    (breakTxTick t s).tx.loopQueue = s.tx.loopQueue ∧ (breakTxTick t s).tx.txAccum = s.tx.txAccum := by
  rcases breakTxTick_cases t s with ⟨-, h⟩ | ⟨-, h⟩ | ⟨-, -, h⟩ | ⟨-, -, -, h⟩ <;> rw [h] <;> exact ⟨rfl, rfl⟩

/-- What a tick leaves of the fields that its steps do not name. -/
structure TickFrame (s t : State) : Prop where
  baud : t.baud = s.baud
  lines : t.lines = s.lines
  cfg : t.cfg = s.cfg
  returned : t.returned = s.returned
  transport : t.session.transport = s.session.transport
  gen : t.session.gen = s.session.gen
  holding : t.tx.holding = s.tx.holding
  asserted : t.tx.txBreakAsserted = s.tx.txBreakAsserted

theorem TickFrame.trans {s t u : State} (h1 : TickFrame s t) (h2 : TickFrame t u) : TickFrame s u :=
  ⟨h2.baud.trans h1.baud, h2.lines.trans h1.lines, h2.cfg.trans h1.cfg, h2.returned.trans h1.returned,
    h2.transport.trans h1.transport, h2.gen.trans h1.gen, h2.holding.trans h1.holding, h2.asserted.trans h1.asserted⟩

theorem TxFrame.tickFrame {s t : State} (h : TxFrame s t) : TickFrame s t :=
  ⟨h.baud, h.lines, h.cfg, h.returned, h.transport, h.gen, h.holding, h.asserted⟩

theorem RxFrame.tickFrame {s t : State} (h : RxFrame s t) : TickFrame s t :=
  ⟨h.baud, h.lines, h.cfg, h.returned, h.transport, h.gen, by rw [h.tx], by rw [h.tx]⟩

theorem tickRx_tickFrame (lc count : Nat) (brk : Bool) (s : State) : TickFrame s (tickRx lc count brk s) := by
  obtain ⟨n, h⟩ := tickRx_frame lc count brk s
  have haccum : TickFrame s (accumulated n s) := ⟨rfl, rfl, rfl, rfl, rfl, rfl, rfl, rfl⟩
  exact haccum.trans h.tickFrame

theorem tickBody_tickFrame (lc : Nat) (s : State) : TickFrame s (tickBody lc s) := by
  rw [tickBody_eq_parts]
  exact (beforeTx_frame _ s).tickFrame
    |>.trans (txTick_frame _ lc _).tickFrame
    |>.trans (tickRx_tickFrame lc _ _ _)
    |>.trans (rxBreakTick_frame _).tickFrame
    |>.trans (breakTxTick_frame _ _).tickFrame

/-- Settles O41: the accumulator by `tickBody_rxAccum`, the frame by `tickBody_tickFrame`, and the transmit group by the
transmit part and the break timer. -/
theorem tickAdvancesTheTimers : Obligations.TickAdvancesTheTimers := by
  intro lc s
  obtain ⟨r, hoff, hbody⟩ := tickBody_endsWith lc s
  obtain ⟨hbaud, hlines, hcfg, hreturned, htransport, hgen, hholding, hasserted⟩ := tickBody_tickFrame lc s
  obtain ⟨hqueue, haccum⟩ := breakTxTick_loopQueue_txAccum s.side.now r
  obtain ⟨-, hstate, -, -⟩ := breakTxTick_keeps s.side.now r
  have hbefore := beforeTx_offTransmit s
  refine ⟨_, exec_tick lc s, tickBody_rxAccum lc s, ?_, hbaud, hlines, hcfg, hreturned, htransport, hgen, hholding,
    hasserted, fun hloop => ?_, fun hexact hstalled => ?_⟩
  · rw [hbody, breakTxTick_counter, hoff.tx, txTick_breakTxCounter, hbefore.tx]
  · rw [hbody, hqueue, hoff.tx, txTick_loopQueue _ _ (by rw [hbefore.transport]; exact hloop), hbefore.tx]
  · rw [hbody, hstate, haccum, hoff.tx, txTick_cycleExact _ _ _ (by rw [hbefore.cfg]; exact hexact)
      (by rw [hbefore.tx]; exact hstalled), hbefore.tx]
    exact ⟨rfl, rfl⟩

/-! The end of a break window -/

/-- Settles O35: no other part of the tick touches a frozen frame, and the break timer resumes it. -/
theorem breakWindowEndResumesTheFrame : Obligations.BreakWindowEndResumesTheFrame := by
  intro lc s hexact hdraining hwindow
  obtain ⟨r, hoff, hbody⟩ := tickBody_endsWith lc s
  have hbefore := beforeTx_offTransmit s
  rw [txTick_cycleExact _ _ _ (by rw [hbefore.cfg]; exact hexact) (by rw [hbefore.tx, hdraining]; decide)] at hoff
  have hkept : OffTransmit s r := hbefore.trans hoff
  refine ⟨_, exec_tick lc s, ?_⟩
  rw [hbody]
  rcases breakTxTick_cases s.side.now r with ⟨hnone, -⟩ | ⟨hmore, -⟩ | ⟨-, hother, -⟩ | ⟨-, -, -, h⟩
  · rw [hkept.tx] at hnone
    omega
  · rw [hkept.tx] at hmore
    omega
  · exact absurd ⟨hkept.cfg ▸ hexact, hkept.tx ▸ hdraining⟩ hother
  · rw [h, ← List.singleton_append, ← List.append_assoc]
    refine ⟨by rw [hkept.tx], (lastSchedule_concat .txDone .txDone _ _ _ _).trans ?_⟩
    rw [if_pos rfl, hkept.tx, hkept.gen]

/-! A frame that drains by the tick's cycles -/

/-- With no backend a frame that completes ends (R60). -/
theorem complete_eq_frameEnded {s : State}
    (hclosed : s.session.transport = .none ∨ s.session.transport = .loopback ∨ s.session.available = false) :
    complete s.side.now s = frameEnded s := by
  rw [complete_closed _ _ hclosed, finish_eq_frameEnded]

/-- The end of a frame writes a transmit group that the other fields it reads determine (R57, R62). -/
theorem frameEnded_tx_congr {s r : State} (htx : r.tx = s.tx) (hbaud : r.baud = s.baud) (hpar : r.par = s.par)
    (hcfg : r.cfg = s.cfg) (hside : r.side = s.side) (htransport : r.session.transport = s.session.transport) :
    (frameEnded r).tx = (frameEnded s).tx := by
  cases hpending : s.tx.dataPending
  · rw [frameEnded_idle hpending, frameEnded_idle (s := r) (by rw [htx]; exact hpending)]
    simp only [lastByte, htx]
  · rw [frameEnded_loads hpending, frameEnded_loads (s := r) (by rw [htx]; exact hpending)]
    have hlast : lastByte r = lastByte s := by simp only [lastByte, htx]
    simp only [loadedTx, hlast, htx, hbaud, hpar, hcfg, hside, htransport]

/-- With no backend a frame that completes after the poll and the overrun ends as before them (R60, R90). -/
theorem complete_closed_tx (x : Tx) {s b : State} (hframe : RxFrame s b)
    (hclosed : s.session.transport = .none ∨ s.session.transport = .loopback ∨ s.session.available = false) :
    (complete s.side.now (withTx x b)).tx = (frameEnded (withTx x s)).tx := by
  have hbclosed : (withTx x b).session.transport = .none ∨ (withTx x b).session.transport = .loopback ∨
      (withTx x b).session.available = false := by
    simp only [withTx, hframe.transport]
    exact hclosed.imp_right (Or.imp_right hframe.available)
  have hended := complete_eq_frameEnded hbclosed
  rw [show (withTx x b).side = s.side from hframe.side] at hended
  rw [hended]
  exact frameEnded_tx_congr rfl hframe.baud hframe.par hframe.cfg hframe.side hframe.transport

/-- The break timer in a window with no frozen frame (R69). -/
theorem breakTxTick_tx_inexact (t : Nat) {s : State} (hexact : s.cfg.cycleExact = false) :
    (breakTxTick t s).tx = { s.tx with breakTxCounter := s.tx.breakTxCounter - 1 } := by
  rcases breakTxTick_cases t s with ⟨hnone, h⟩ | ⟨-, h⟩ | ⟨hone, -, h⟩ | ⟨-, hcycle, -⟩
  · rw [h, hnone]
    exact congrArg (fun n => { s.tx with breakTxCounter := n }) hnone
  · rw [h]
  · rw [h, hone]
  · rw [hexact] at hcycle
    cases hcycle

/-- In a break window the transmit part adds nothing to a draining frame (R63). -/
theorem txTick_window (t lc : Nat) {s : State} (hdraining : s.tx.shiftState = .draining)
    (hwindow : 0 < s.tx.breakTxCounter) : txTick t lc s = s := by
  simp [txTick, hdraining, hwindow.ne']

/-- Short of the crossing the transmit part adds its cycles (R63). -/
theorem txTick_short (t : Nat) {lc : Nat} {s : State} (hexact : s.cfg.cycleExact = false)
    (hdraining : s.tx.shiftState = .draining) (hnone : s.tx.breakTxCounter = 0)
    (hshort : s.tx.txAccum + lc < s.tx.txFrameCycles) :
    txTick t lc s = { s with tx := { s.tx with txAccum := s.tx.txAccum + lc } } := by
  simp [txTick, hexact, hdraining, hnone, Nat.not_le.mpr hshort]

/-- At the crossing one frame completes, and the excess is retained (R63). -/
theorem txTick_crossing (t : Nat) {lc : Nat} {s : State} (hexact : s.cfg.cycleExact = false)
    (hdraining : s.tx.shiftState = .draining) (hnone : s.tx.breakTxCounter = 0)
    (hcrosses : s.tx.txFrameCycles ≤ s.tx.txAccum + lc) :
    txTick t lc s = complete t { s with tx := { s.tx with txAccum := s.tx.txAccum + lc - s.tx.txFrameCycles } } := by
  simp [txTick, hexact, hdraining, hnone, hcrosses]

/-- The transmit group after a tick outside cycle-exact mode: that of the transmit part, and the window counts down. -/
theorem tickBody_tx_inexact (lc : Nat) {s : State} (hexact : s.cfg.cycleExact = false) :
    (tickBody lc s).tx = { (txTick s.side.now lc (beforeTx s)).tx with
      breakTxCounter := s.tx.breakTxCounter - 1 } := by
  obtain ⟨r, hoff, hbody⟩ := tickBody_endsWith lc s
  have hbefore := beforeTx_offTransmit s
  have hrexact : r.cfg.cycleExact = false := by
    rw [hoff.cfg, (txTick_frame _ _ _).cfg, hbefore.cfg, hexact]
  rw [hbody, breakTxTick_tx_inexact _ hrexact, hoff.tx, txTick_breakTxCounter, hbefore.tx]

/-- Settles O43, by the branch of the transmit part: held by a window, short of the crossing, or at it. -/
theorem tickDrainsTheFrameByItsCycles : Obligations.TickDrainsTheFrameByItsCycles := by
  intro lc s hexact hdraining crossed
  have hframe : RxFrame s (beforeTx s) := beforeTx_frame _ s
  have htx := tickBody_tx_inexact lc hexact
  generalize beforeTx s = b at hframe htx
  have hbexact : b.cfg.cycleExact = false := hframe.cfg ▸ hexact
  have hbdraining : b.tx.shiftState = .draining := hframe.tx ▸ hdraining
  refine ⟨_, exec_tick lc s, fun hwindow => ?_, fun hnone hshort => ?_, fun hnone hcrosses hclosed => ?_⟩
  · rw [htx, txTick_window _ _ hbdraining (hframe.tx ▸ hwindow), hframe.tx]
  · rw [htx, txTick_short _ hbexact hbdraining (hframe.tx ▸ hnone) (hframe.tx ▸ hshort), hframe.tx, hnone]
    exact congrArg (fun n => { s.tx with txAccum := s.tx.txAccum + lc, breakTxCounter := n }) hnone.symm
  · have hended : (txTick s.side.now lc b).tx = (frameEnded crossed).tx := by
      rw [txTick_crossing _ hbexact hbdraining (hframe.tx ▸ hnone) (hframe.tx ▸ hcrosses), hframe.tx]
      exact complete_closed_tx crossed.tx hframe hclosed
    have hcounter : (frameEnded crossed).tx.breakTxCounter = 0 := by
      rw [← hended, txTick_breakTxCounter, hframe.tx, hnone]
    rw [htx, hended, hnone]
    exact congrArg (fun n => { (frameEnded crossed).tx with breakTxCounter := n }) hcounter.symm

end Sys2Proof.Machine

/-! The loopback round trip (R57, R59, R83). -/

namespace Sys2Proof.Machine

/-- The register keeps every bit of an echo: it is no wider than the ten bits that are stored (R59, R71, R79). -/
theorem echoWord_masked (nine : Bool) (w : Reg) : echoWord nine w &&& 0x03FF = echoWord nine w := by
  have hmasked : ∀ flag mask : Reg, flag &&& 0x03FF = flag → mask &&& 0x03FF = mask →
      (flag ||| (w &&& mask)) &&& 0x03FF = flag ||| (w &&& mask) := by
    intro flag mask hflag hmask
    rw [BitVec.and_or_distrib_right, BitVec.and_assoc, hflag, hmask]
  cases nine
  · exact hmasked 0x0100 0x00FF (by decide) (by decide)
  · exact hmasked 0x0200 0x01FF (by decide) (by decide)

/-- Under the invariant the frame is the transmit period (R53, R57). -/
theorem loadFrame_eq_txPeriodCycles {s : State} (h : SessionInv s) : loadFrame s = s.baud.txPeriodCycles := by
  rw [loadFrame_eq, h.txPeriod]

/-- On Loopback a load queues its echo (R59). -/
theorem load_loopQueue (t : Nat) {s : State} (hloop : s.session.transport = .loopback) :
    (load t s).tx.loopQueue = s.tx.loopQueue ++ [loadEcho t s] := by
  rw [load_tx]
  exact if_pos hloop

/-- The state that an idle loopback session has after `WSERDAT`, as far as its echo goes (R59). -/
theorem writeData_loopback (w : Reg) {s : State} (hinv : SessionInv s) (hloop : s.session.transport = .loopback)
    (hempty : s.tx.shiftState = .empty) (hqueue : s.tx.loopQueue = []) :
    let due := s.side.now + s.baud.txPeriodCycles + s.par.propCycles
    (writeData w s).tx.loopQueue = [{ word := echoWord (ninebit s.baud.period) w, due := due }] ∧
      lastSchedule .loopbackRx (writeData w s).history = some (due, s.session.gen) := by
  have hframe : loadFrame (held w s) = s.baud.txPeriodCycles := by
    rw [← loadFrame_eq_txPeriodCycles hinv, held_eq]
    rfl
  have hecho : loadEcho s.side.now (held w s) =
      { word := echoWord (ninebit s.baud.period) w, due := s.side.now + s.baud.txPeriodCycles + s.par.propCycles } := by
    rw [loadEcho, hframe, held_eq]
  have hnow : now (held w s) = s.side.now := by rw [held_eq]
  have hlooped : (held w s).session.transport = .loopback := by rw [held_eq]; exact hloop
  have hfirst : (held w s).tx.loopQueue = [] := by rw [held_eq]; exact hqueue
  refine ⟨?_, ?_⟩
  · rw [writeData_empty w hempty, load_loopQueue _ hlooped, hfirst, hnow, hecho, List.nil_append]
  · rw [writeData_empty w hempty, load_loopbackRx, if_pos ⟨hlooped, hfirst⟩, hnow, hecho, held_eq]

/-- What the delivery of a firing leaves: the register, and the queue without its head (R79, R83). -/
theorem fireLoopback_receives {s : State} {e : Echo} {rest : List Echo} (hgen : s.side.g = s.session.gen)
    (hloop : s.session.transport = .loopback) (hq : s.tx.loopQueue = e :: rest) (hdue : e.due ≤ s.side.now)
    (hroom : s.rx.rbf = false) : (fireLoopback s).rx.rbf = true ∧ (fireLoopback s).tx.loopQueue = rest ∧
      (fireLoopback s).rx.receiveReg = e.word &&& 0x03FF := by
  rw [fireLoopback_of_valid hgen hloop hq hdue, scheduleNextEcho_history, deliver_eq]
  simp [deliveredRx, hroom]

/-- Settles O40: the echo and its callback by `writeData_loopback`, the firing by whether it is due. -/
theorem loopbackRoundTripTakesPeriodPlusPropagation : Obligations.LoopbackRoundTripTakesPeriodPlusPropagation := by
  intro w s s1 later hinv hloop hempty hqueue hroom hwrite s2 due
  rw [exec_wserdat] at hwrite
  cases hwrite
  obtain ⟨hecho, hstands⟩ := writeData_loopback w hinv.session hloop hempty hqueue
  have hkept := writeData_keepsSession w s
  have hgen : s2.side.g = s2.session.gen := hkept.gen.symm
  have hlooped : s2.session.transport = .loopback := hkept.transport.trans hloop
  have hregister : s2.rx.rbf = false := by
    have hrx : s2.rx = s.rx := (writeData_offReceiver w s).rx
    rw [hrx, hroom]
  refine ⟨hstands, fun hearly => ?_, fun hdue => ⟨_, exec_fireLoopbackRx s2, ?_⟩⟩
  · have hinvalid : callbackValid .loopbackRx s2 = false := by
      rw [← Bool.not_eq_true, callbackValid_loopbackRx_iff]
      rintro ⟨-, -, e, rest, hq, hdue⟩
      obtain ⟨rfl, -⟩ := List.cons.inj (hecho.symm.trans hq)
      exact absurd hearly (Nat.not_lt.mpr hdue)
    rw [exec_fireLoopbackRx, fireLoopback_of_invalid hinvalid]
  · obtain ⟨hfull, hleft, hword⟩ := fireLoopback_receives hgen hlooped hecho hdue hregister
    exact ⟨hfull, hleft, hword.trans (echoWord_masked _ w)⟩

end Sys2Proof.Machine

/-! The stimuli that read, acknowledge and echo, each in full (R81, R82, R83). -/

namespace Sys2Proof.Machine

/-- Settles O38: the word is the encoding of `ACKRBF`, whose body is the two writes. -/
theorem ackrbfClearsOverrunAndUnacked : Obligations.AckrbfClearsOverrunAndUnacked := fun _ =>
  ⟨decode_eq_ok_iff.mpr ⟨rfl, by decide⟩, rfl⟩

/-- The read of the register, by whether a sticky interrupt waits (R81, R105). -/
theorem clearRead_eq (s : State) : clearRead s = { s with
    rx := { s.rx with rbf := false, unreadLines := 0 }
    irq := if s.irq.stickyRbf then { rbfUnacked := true, stickyRbf := false } else s.irq
    history := s.history ++ (if s.irq.stickyRbf then [eventEntry s .irqRBF] else []) } := by
  cases hsticky : s.irq.stickyRbf
  · simp [clearRead, hsticky]
  · simp [clearRead, hsticky, requestRBF, emit, eventEntry]

/-- Settles O37: `clearRead_eq`, and the word given back is that of the state before the read. -/
theorem rserdatrClearsRbfAndReassertsSticky : Obligations.RserdatrClearsRbfAndReassertsSticky := by
  intro s
  show Host.Outcome.next (giveBack (.serdatr (serdatrWord s)) (clearRead s)) = _
  rw [clearRead_eq]
  rfl

/-- The request for the callback of the echo at the head of a queue (R83). -/
def nextEchoEvents (echoes : List Echo) (s : State) : List Entry :=
  match echoes with
  | [] => []
  | e :: _ => [eventEntry s (.schedule .loopbackRx (max e.due s.side.now) s.session.gen)]

theorem scheduleNextEcho_events (s : State) :
    scheduleNextEcho s = { s with history := s.history ++ nextEchoEvents s.tx.loopQueue s } := by
  cases hq : s.tx.loopQueue with
  | nil => simp [scheduleNextEcho, hq, nextEchoEvents]
  | cons e rest => simp [scheduleNextEcho, hq, nextEchoEvents, schedule, emit, eventEntry]

/-- Settles O39: the delivery by `deliver_eq`, and then the next echo's callback. -/
theorem loopbackFiringDeliversOneEcho : Obligations.LoopbackFiringDeliversOneEcho := by
  intro s e rest hgen hloop hq hdue room
  rw [exec_fireLoopbackRx, fireLoopback_of_valid hgen hloop hq hdue, scheduleNextEcho_events, deliver_eq]
  cases rest with
  | nil => rfl
  | cons next others => rfl

end Sys2Proof.Machine

/-! Ticks that take no word: an idle session, and one whose full register nobody reads (R73, R80, R93). -/

namespace Sys2Proof.Machine

/-- The timers of a tick with no break window leave the transmit group (R92). -/
theorem withTimers_noWindow (x : Rx) {s : State} (hwindow : s.tx.breakTxCounter = 0) :
    withTimers (s.tx.breakTxCounter - 1) x s = { s with rx := x } := by
  have htx : { s.tx with breakTxCounter := s.tx.breakTxCounter - 1 } = s.tx :=
    congrArg (fun n => { s.tx with breakTxCounter := n }) (by rw [hwindow])
  rw [withTimers, htx]

/-- With no backend a tick that takes nothing breaks the run of unread ones, and forgets no ninth bit (R76, R80,
R91). -/
theorem restedRx_closed (lc : Nat) {s : State} (hext : s.session.transport.external = false) :
    restedRx lc 0 s = { s.rx with rxAccum := accumulatedTo lc s, unreadLines := 0 } := by
  simp [restedRx, hext]

/-- Settles O42: it is a quiet tick beside an idle transmitter, with no backend. -/
theorem tickOnAnIdleClosedSession : Obligations.TickOnAnIdleClosedSession := by
  intro lc s hnone hempty hwindow hclear hqueue
  have hext : s.session.transport.external = false := by rw [hnone]; rfl
  have hpoll : Polls s 0 false s := by simpa [hnone] using Polls.unasked (Or.inl hext)
  have hidle : txTick s.side.now lc (setUnread (if GateOpen s ∨ 0 = 0 then 0 else s.rx.unreadLines + 1) s) =
      setUnread 0 s := by
    rw [if_pos (Or.inr rfl)]
    exact txTick_idle _ _ _ hempty
  have hwindow' : (setUnread 0 s).tx.breakTxCounter = 0 := hwindow
  have hbody := quiet_tickBody (u := setUnread 0 s) hpoll hclear (fun _ h => absurd h (Nat.lt_irrefl 0))
    (fun _ => ⟨rfl, Or.inr hqueue, Or.inl rfl⟩) (by simp [hwindow]) rfl hidle
  rw [exec_tick, hbody, restedRx_closed lc hext, ite_self]
  exact congrArg _ (withTimers_noWindow _ hwindow')

end Sys2Proof.Machine

/-! A receive step that may take a word, in full (R73, R76, R78, R79): by the answers lined up to its reads. -/

namespace Sys2Proof.Machine

/-- What a read of one byte comes to, `took` being what is done with the byte (R76, R78, R95). -/
def afterRead (took : Byte → State → State) (s : State) : State :=
  match readAnswer 1 s with
  | .failure => transportFailed (calledRead 1 s)
  | .value [] => calledRead 1 s
  | .value (b :: _) => took b (calledRead 1 s)

/-- The read of one byte, answered `a` (R94). -/
def askedRead (a : Answer (List Byte)) (reads : List (Answer (List Byte))) (s : State) : State := { s with
  script := { s.script with reads := reads }
  draws := s.draws + 1
  history := s.history ++ [callEntry s (.read 1 a)] }

theorem readAnswer_of_script (k : Nat) {s : State} {a : Answer (List Byte)} {reads : List (Answer (List Byte))}
    (h : s.script.reads = a :: reads) : readAnswer k s = boundBytes k a := by
  simp [readAnswer, h, drawn]

theorem calledRead_of_script {s : State} {a : Answer (List Byte)} {reads : List (Answer (List Byte))}
    (h : s.script.reads = a :: reads) : calledRead 1 s = askedRead (boundBytes 1 a) reads s := by
  simp only [calledRead, readAnswer_of_script 1 h, h]
  rfl

theorem afterRead_byte (took : Byte → State → State) {s : State} {b : Byte} {bs : List Byte}
    {reads : List (Answer (List Byte))} (h : s.script.reads = .value (b :: bs) :: reads) :
    afterRead took s = took b (askedRead (.value [b]) reads s) := by
  simp [afterRead, readAnswer_of_script 1 h, calledRead_of_script h, boundBytes]

theorem afterRead_nothing (took : Byte → State → State) {s : State} {reads : List (Answer (List Byte))}
    (h : s.script.reads = .value [] :: reads) : afterRead took s = askedRead (.value []) reads s := by
  simp [afterRead, readAnswer_of_script 1 h, calledRead_of_script h, boundBytes]

theorem afterRead_failure (took : Byte → State → State) {s : State} {reads : List (Answer (List Byte))}
    (h : s.script.reads = .failure :: reads) :
    afterRead took s = transportFailed (askedRead .failure reads s) := by
  simp [afterRead, readAnswer_of_script 1 h, calledRead_of_script h, boundBytes]

/-! The intakes, each by its read (R76, R78) -/

theorem intake8_eq (count : Nat) (s : State) :
    intake8 count s = if count = 0 then setPrefix none s else afterRead acceptByte (setPrefix none s) := by
  unfold intake8
  simp only []
  by_cases hcount : count = 0
  · rw [if_pos hcount, if_pos hcount]
  · rw [if_neg hcount, if_neg hcount]
    rfl

/-- What the data half of a 9-bit intake does with its byte. -/
def takeData (n : Bool) (d : Byte) (s : State) : State := deliver (received9 n d) (setPrefix none s)

theorem intake9Data_eq (n : Bool) (count : Nat) (s : State) :
    intake9Data n count s = if count = 0 then s else afterRead (takeData n) s := by
  unfold intake9Data
  by_cases hcount : count = 0
  · rw [if_pos hcount, if_pos hcount]
  · rw [if_neg hcount, if_neg hcount]
    rfl

/-- What the first half of a 9-bit intake does with its byte: checked against the sync pattern, it is accepted, and the
data byte may follow, or dropped with a log. -/
def takePrefix (count : Nat) (p : Byte) (s : State) : State :=
  if isPrefix s.par.syncBase p then intake9Data (p.getLsbD 0) (count - 1) (setPrefix (some (p.getLsbD 0)) s)
  else logReason .frameDesync s

theorem intake9Prefix_eq (count : Nat) (s : State) :
    intake9Prefix count s = if count = 0 then s else afterRead (takePrefix count) s := by
  unfold intake9Prefix
  by_cases hcount : count = 0
  · rw [if_pos hcount, if_pos hcount]
  · rw [if_neg hcount, if_neg hcount]
    rfl

theorem isPrefix_iff (sync p : Byte) : isPrefix sync p = true ↔ p &&& 0xFE = sync := by
  simp [isPrefix]

theorem intake9_unprefixed (count : Nat) {s : State} (h : s.rx.rxPrefix = none) :
    intake9 count s = intake9Prefix count s := by
  simp [intake9, h]

theorem intake9_prefixed (count : Nat) {s : State} {n : Bool} (h : s.rx.rxPrefix = some n) :
    intake9 count s = intake9Data n count s := by
  simp [intake9, h]

/-- `Receives`, as far as the taking of a word reads it. -/
structure ReadyToTake (count : Nat) (s r : State) : Prop where
  gate : GateOpen r
  baud : r.baud = s.baud
  rbf : r.rx.rbf = s.rx.rbf
  queue : r.rx.receiveQueue = s.rx.receiveQueue
  waiting : r.rx.rxPrefix = s.rx.rxPrefix
  reads : r.script.reads = s.script.reads
  cfg : r.cfg = s.cfg
  par : r.par = s.par
  side : r.side = s.side
  backend : 0 < count → r.session = s.session ∧ r.session.transport.external = true ∧ r.session.available = true

theorem Receives.ready {lc count : Nat} {s r : State} (h : Receives lc count s r) : ReadyToTake count s r := by
  obtain ⟨gate, -, baud, rbf, queue, waiting, reads, cfg, par, side, backend⟩ := receives_keeps h
  refine ⟨gate, baud, rbf, queue, waiting, reads, cfg, par, side, fun hcount => ?_⟩
  obtain ⟨hsession, hext, havail⟩ := backend hcount
  exact ⟨hsession, by rw [hsession]; exact hext, by rw [hsession]; exact havail⟩

theorem ReadyToTake.callEntry_eq {count : Nat} {s r : State} (h : ReadyToTake count s r) :
    callEntry s = callEntry r := by
  funext x
  simp only [callEntry, h.side]

theorem ReadyToTake.eventEntry_eq {count : Nat} {s r : State} (h : ReadyToTake count s r) :
    eventEntry s = eventEntry r := by
  funext e
  simp only [eventEntry, h.side]

/-- No queued word can enter the register: it is full, or there is none. -/
theorem ReadyToTake.noQueued {count : Nat} {s r : State} (h : ReadyToTake count s r)
    (hnone : s.rx.rbf = true ∨ s.rx.receiveQueue = []) : r.rx.rbf = true ∨ r.rx.receiveQueue = [] := by
  rw [h.rbf, h.queue]
  exact hnone

/-! Which source the word comes from (R73) -/

/-- A queued word goes into the empty register first. -/
theorem takeWord_queued (count : Nat) {r : State} {w : Reg} {rest : List Reg} (hrbf : r.rx.rbf = false)
    (hqueue : r.rx.receiveQueue = w :: rest) :
    takeWord count r = delivered w { r with rx := { r.rx with receiveQueue := rest } } := by
  rw [← deliver_eq_delivered]
  simp [takeWord, hqueue, hrbf]

/-- With no queued word to move and no backend, nothing is taken. -/
theorem takeWord_closed (count : Nat) {r : State} (hnone : r.rx.rbf = true ∨ r.rx.receiveQueue = [])
    (hclosed : r.session.transport.external = false ∨ r.session.available = false) : takeWord count r = r := by
  have hintake := intakeFromTransport_closed count r hclosed
  unfold takeWord
  split
  · exact hintake
  · next w rest hqueue =>
    rcases hnone with hrbf | hempty
    · rw [if_pos hrbf, hintake]
    · simp [hqueue] at hempty

/-- A receive step on a backend, in 8-bit mode. -/
theorem Receives.exec_intake8 {lc count : Nat} {s r : State} (h : Receives lc count s r)
    (hnone : s.rx.rbf = true ∨ s.rx.receiveQueue = []) (hmode : s.baud.period.getLsbD 15 = false)
    (hext : r.session.transport.external = true) (havail : r.session.available = true) :
    exec (.tick lc) s = .next (intake8 count r) := by
  have hready := h.ready
  have hnine : ninebit r.baud.period = false := by rw [hready.baud]; exact hmode
  rw [receives_exec h, takeWord_open count r ((canReceive_iff r).mpr hready.gate) (hready.noQueued hnone) hext havail,
    hnine]
  rfl

/-- A receive step on a backend with bytes waiting, in 9-bit mode. -/
theorem Receives.exec_intake9 {lc count : Nat} {s r : State} (h : Receives lc count s r)
    (hnone : s.rx.rbf = true ∨ s.rx.receiveQueue = []) (hmode : s.baud.period.getLsbD 15 = true)
    (hcount : 0 < count) : exec (.tick lc) s = .next (intake9 count r) := by
  have hready := h.ready
  have hnine : ninebit r.baud.period = true := by rw [hready.baud]; exact hmode
  obtain ⟨-, hext, havail⟩ := hready.backend hcount
  rw [receives_exec h, takeWord_open count r ((canReceive_iff r).mpr hready.gate) (hready.noQueued hnone) hext havail,
    hnine]
  rfl

/-! The taking in the terms of the statements -/

/-- A byte is delivered with its stop bit, or dropped where it is 0x0A under `crlf` (R76, R77). -/
theorem acceptByte_eq (b : Byte) (s : State) :
    acceptByte b s = if s.cfg.crlf = true ∧ b = 0x0A then s else delivered (0x0100 ||| b.setWidth 16) s := by
  simp only [acceptByte, Bool.and_eq_true, beq_iff_eq, deliver_eq_delivered, received8]

/-- Settles O44: the word comes from the queue, from nowhere, or by one read, whose answer decides. -/
theorem tickReceivesOneByte : Obligations.TickReceivesOneByte := by
  intro lc count s r h read
  have hready := h.ready
  have hread : ∀ a reads, read a reads = askedRead a reads (setPrefix none r) := fun a reads => by
    simp only [read, hready.callEntry_eq]
    rfl
  refine ⟨fun w rest hrbf hqueue => ?_, fun hnone hclosed => ?_, fun hnone hmode =>
    ⟨fun hcount hext havail => ?_, fun b bs reads hcount hreads => ?_, fun reads hcount hreads => ?_,
      fun reads hcount hreads => ?_⟩⟩
  · rw [receives_exec h, takeWord_queued count (hready.rbf.trans hrbf) (hready.queue.trans hqueue)]
  · rw [receives_exec h, takeWord_closed count (hready.noQueued hnone) hclosed]
  · rw [h.exec_intake8 hnone hmode hext havail, hcount]
    rfl
  all_goals
    have hscript := (show (setPrefix none r).script.reads = _ from hready.reads).trans hreads
    obtain ⟨hsession, hext, havail⟩ := hready.backend hcount
    rw [h.exec_intake8 hnone hmode hext havail, hread, intake8_eq, if_neg hcount.ne']
  · rw [afterRead_byte _ hscript, acceptByte_eq, ← hready.cfg]
    rfl
  · rw [afterRead_nothing _ hscript]
  · rw [afterRead_failure _ hscript, transportFailed_eq, ← hsession, hready.eventEntry_eq]
    rfl

/-- The received word of 9-bit mode in the terms of the statement (R71). -/
theorem received9_eq (n : Bool) (d : Byte) :
    received9 n d = 0x0200 ||| (if n then 0x0100 else 0) ||| d.setWidth 16 := by
  cases n
  · rfl
  · rfl

/-- With no bytes waiting a 9-bit receive step takes nothing: it forgets no ninth bit (R78). -/
theorem takeWord_nineBit_none {r : State} (hnone : r.rx.rbf = true ∨ r.rx.receiveQueue = [])
    (hnine : r.baud.period.getLsbD 15 = true) : takeWord 0 r = r := by
  rw [takeWord_rests 0 r hnone (Or.inl rfl), if_neg (by simp [hnine])]

/-- With no ninth bit waiting the byte read is checked against the sync pattern (R78). -/
theorem Receives.exec_syncByte {lc count : Nat} {s r : State} (h : Receives lc count s r)
    (hnone : s.rx.rbf = true ∨ s.rx.receiveQueue = []) (hmode : s.baud.period.getLsbD 15 = true)
    (hprefix : s.rx.rxPrefix = none) (hcount : 0 < count) :
    exec (.tick lc) s = .next (afterRead (takePrefix count) r) := by
  rw [h.exec_intake9 hnone hmode hcount, intake9_unprefixed count (h.ready.waiting.trans hprefix), intake9Prefix_eq,
    if_neg hcount.ne']

/-- Behind a ninth bit that waits the byte read is the data byte (R78). -/
theorem Receives.exec_dataByte {lc count : Nat} {s r : State} (h : Receives lc count s r)
    (hnone : s.rx.rbf = true ∨ s.rx.receiveQueue = []) (hmode : s.baud.period.getLsbD 15 = true) {n : Bool}
    (hprefix : s.rx.rxPrefix = some n) (hcount : 0 < count) :
    exec (.tick lc) s = .next (afterRead (takeData n) r) := by
  rw [h.exec_intake9 hnone hmode hcount, intake9_prefixed count (h.ready.waiting.trans hprefix), intake9Data_eq,
    if_neg hcount.ne']

theorem ReadyToTake.isPrefix_iff {count : Nat} {s r : State} (h : ReadyToTake count s r) (p : Byte) :
    isPrefix r.par.syncBase p = true ↔ p &&& 0xFE = s.par.syncBase := by
  rw [Machine.isPrefix_iff, h.par]

theorem takePrefix_mismatch {count count' : Nat} {s r : State} (h : ReadyToTake count s r) {p : Byte}
    (hsync : p &&& 0xFE ≠ s.par.syncBase) (reads : List (Answer (List Byte))) :
    takePrefix count' p (askedRead (.value [p]) reads r) = logReason .frameDesync (askedRead (.value [p]) reads r) :=
  if_neg ((h.isPrefix_iff p).not.mpr hsync)

theorem takePrefix_match {count count' : Nat} {s r : State} (h : ReadyToTake count s r) {p : Byte}
    (hsync : p &&& 0xFE = s.par.syncBase) (reads : List (Answer (List Byte))) :
    takePrefix count' p (askedRead (.value [p]) reads r) = intake9Data (p.getLsbD 0) (count' - 1)
      (setPrefix (some (p.getLsbD 0)) (askedRead (.value [p]) reads r)) :=
  if_pos ((h.isPrefix_iff p).mpr hsync)

/-- Settles O45: by the ninth bit that waits, the answers to the read or the two reads, and the check of the first
byte. -/
theorem tickReceivesANineBitFrame : Obligations.TickReceivesANineBitFrame := by
  intro lc count s r h hnone hmode word read failing
  have hready := h.ready
  have hread1 : ∀ kept a reads, read kept [a] reads = askedRead a reads (setPrefix kept r) := fun kept a reads => by
    simp only [read, hready.callEntry_eq]
    rfl
  have hread2 : ∀ kept a b reads reads', read kept [a, b] reads =
      askedRead b reads (setPrefix kept (askedRead a reads' r)) := fun kept a b reads reads' => by
    simp only [read, hready.callEntry_eq, askedRead, setPrefix, List.append_assoc]
    rfl
  have hfailing : ∀ t : State, t.side = r.side → failing t = transportFailed t := fun t hside => by
    simp only [failing, transportFailed_eq, eventEntry, hside, hready.side]
  have hkept : setPrefix s.rx.rxPrefix r = r := by rw [← hready.waiting]; rfl
  refine ⟨fun hcount => ?_, fun hprefix => ?_, fun n hprefix => ?_⟩
  · rw [receives_exec h, hcount, takeWord_nineBit_none (hready.noQueued hnone) (by rw [hready.baud]; exact hmode)]
  · rw [hprefix] at hkept
    refine ⟨fun reads hcount hreads => ?_, fun reads hcount hreads => ?_, fun p reads hcount hreads hsync => ?_,
      fun p reads hcount hreads hsync => ?_, fun p reads hcount hreads hsync => ?_,
      fun p reads hcount hreads hsync => ?_, fun p d reads hcount hreads hsync => ?_⟩
      <;> rw [h.exec_syncByte hnone hmode hprefix (by omega)]
    · rw [afterRead_nothing _ (hready.reads.trans hreads), hread1, hkept]
    · rw [afterRead_failure _ (hready.reads.trans hreads), ← hfailing, hread1, hkept]
      rfl
    · rw [afterRead_byte _ (hready.reads.trans hreads), takePrefix_mismatch hready hsync, hread1, hkept,
        hready.eventEntry_eq]
      rfl
    · rw [afterRead_byte _ (hready.reads.trans hreads), takePrefix_match hready hsync, hcount, hread1]
      rfl
    all_goals
      have hmore : count - 1 ≠ 0 := by omega
      rw [afterRead_byte _ (hready.reads.trans hreads), takePrefix_match hready hsync, intake9Data_eq, if_neg hmore]
    · rw [afterRead_nothing _ rfl, hread2 _ _ _ _ (.value [] :: reads)]
    · rw [afterRead_failure _ rfl, ← hfailing, hread2 _ _ _ _ (.failure :: reads)]
      rfl
    · rw [afterRead_byte _ rfl, takeData, deliver_eq_delivered, received9_eq, hread2 _ _ _ _ (.value [d] :: reads)]
      rfl
  · rw [hprefix] at hkept
    refine ⟨fun reads hcount hreads => ?_, fun reads hcount hreads => ?_, fun d reads hcount hreads => ?_⟩
      <;> rw [h.exec_dataByte hnone hmode hprefix hcount]
    · rw [afterRead_nothing _ (hready.reads.trans hreads), hread1, hkept]
    · rw [afterRead_failure _ (hready.reads.trans hreads), ← hfailing, hread1, hkept]
      rfl
    · rw [afterRead_byte _ (hready.reads.trans hreads), takeData, deliver_eq_delivered, received9_eq, hread1]
      rfl

end Sys2Proof.Machine

/-! Ticks in which the register keeps what it holds: no queued word can move, and nothing is counted or the gate is
shut (R73, R80). -/

namespace Sys2Proof.Machine

/-- The register, its flags, the count of unread ticks and the interrupt bookkeeping are the same in both states; a
ninth bit that waits may have been forgotten. -/
structure KeepsRegister (s t : State) : Prop where
  receiveReg : t.rx.receiveReg = s.rx.receiveReg
  rbf : t.rx.rbf = s.rx.rbf
  overrun : t.rx.overrun = s.rx.overrun
  unread : t.rx.unreadLines = s.rx.unreadLines
  forgets : s.rx.rxPrefix = none → t.rx.rxPrefix = none
  irq : t.irq = s.irq

theorem KeepsRegister.refl (s : State) : KeepsRegister s s := ⟨rfl, rfl, rfl, rfl, id, rfl⟩

theorem KeepsRegister.trans {s t u : State} (h1 : KeepsRegister s t) (h2 : KeepsRegister t u) : KeepsRegister s u :=
  ⟨h2.receiveReg.trans h1.receiveReg, h2.rbf.trans h1.rbf, h2.overrun.trans h1.overrun, h2.unread.trans h1.unread,
    fun h => h2.forgets (h1.forgets h), h2.irq.trans h1.irq⟩

theorem TxFrame.keepsRegister {s t : State} (h : TxFrame s t) : KeepsRegister s t := by
  constructor <;> first | exact h.irq | simp only [h.rx, imp_self]

/-- Nothing to take: no queued word, and no byte that may be read. -/
structure NothingToTake (count : Nat) (s : State) : Prop where
  queue : s.rx.receiveQueue = []
  bytes : count = 0 ∨ ¬ GateOpen s

theorem takeWord_keepsRegister {count : Nat} {s : State} (h : NothingToTake count s) :
    KeepsRegister s (takeWord count s) := by
  rw [takeWord_rests count s (Or.inr h.queue) h.bytes]
  refine ⟨rfl, rfl, rfl, rfl, fun hnone => ?_, rfl⟩
  simp only [hnone, ite_self]

theorem detectingStep_keepsRegister (s : State) : KeepsRegister s (detectingStep s) := by
  unfold detectingStep
  simp only []
  split
  · exact ⟨rfl, rfl, rfl, rfl, fun _ => rfl, rfl⟩
  · exact ⟨rfl, rfl, rfl, rfl, id, rfl⟩

/-- A break that is detected leaves the register to the word of the same step (R74). -/
theorem rxStep_keepsRegister {count : Nat} (brk : Bool) {s : State} (h : NothingToTake count s) :
    KeepsRegister s (rxStep count brk s) := by
  unfold rxStep
  split
  · exact .refl s
  · split
    · exact detectingStep_keepsRegister s
    · split
      · have hdetect : KeepsRegister s (detectBreak s) := ⟨rfl, rfl, rfl, rfl, id, rfl⟩
        exact hdetect.trans (takeWord_keepsRegister (s := detectBreak s) ⟨h.queue, h.bytes⟩)
      · exact takeWord_keepsRegister h

theorem tickRx_keepsRegister (lc : Nat) {count : Nat} (brk : Bool) {s : State} (h : NothingToTake count s) :
    KeepsRegister s (tickRx lc count brk s) := by
  have haccum : ∀ n, KeepsRegister s (accumulated n s) := fun _ => ⟨rfl, rfl, rfl, rfl, id, rfl⟩
  by_cases hc : Crosses lc s
  · rw [tickRx_crossing lc count brk s hc]
    exact (haccum _).trans (rxStep_keepsRegister (s := accumulated _ s) brk ⟨h.queue, h.bytes⟩)
  · rw [tickRx_waiting lc count brk s hc]
    exact haccum _

theorem rxBreakTick_keepsRegister (s : State) : KeepsRegister s (rxBreakTick s) := by
  rcases rxBreakTick_cases s with ⟨-, h⟩ | ⟨-, h⟩ | ⟨-, h⟩ <;> rw [h]
  · exact .refl s
  · exact ⟨rfl, rfl, rfl, rfl, id, rfl⟩
  · exact ⟨rfl, rfl, rfl, rfl, id, rfl⟩

/-- After its poll and its overrun part such a tick leaves the register alone (R90, steps 3 to 5). -/
theorem tickBody_keepsRegister (lc : Nat) {s : State}
    (h : NothingToTake (countAfterOverrun (pollResult s).1 (polled s)) (beforeTx s)) :
    KeepsRegister (beforeTx s) (tickBody lc s) := by
  have htx := txTick_frame s.side.now lc (beforeTx s)
  rw [tickBody_eq_parts]
  refine htx.keepsRegister.trans (.trans (tickRx_keepsRegister lc _ ⟨?_, ?_⟩)
    ((rxBreakTick_keepsRegister _).trans (breakTxTick_frame _ _).keepsRegister))
  · rw [htx.rx, h.queue]
  · simp only [GateOpen, htx.rx, htx.cfg, htx.transport]
    exact h.bytes

/-! The overrun of such a tick (R80) -/

/-- What a backend loses in the overrun part it does not regain in the tick (R95). -/
theorem tickBody_unavailable (lc : Nat) {s : State} (h : (beforeTx s).session.available = false) :
    (tickBody lc s).session.available = false := by
  rw [tickBody_eq_parts]
  obtain ⟨n, hrx⟩ := tickRx_frame lc (countAfterOverrun (pollResult s).1 (polled s)) (pollResult s).2
    (txTick s.side.now lc (beforeTx s))
  exact (breakTxTick_frame _ _).available ((rxBreakTick_frame _).available
    (hrx.available ((txTick_frame _ _ _).available h)))

/-- A forced overrun whose flush fails (R80, R95; log 9). -/
theorem forceOverrun_flushFails {s : State} (h : flushAnswer s = .failure) :
    Emits [.flush, .log .overrun, .log .transportFailed] s (forceOverrun s) ∧
      (forceOverrun s).session.available = false := by
  rcases forceOverrun_cases s with ⟨-, hforced⟩ | ⟨hvalue, -⟩
  · rw [hforced]
    exact ⟨⟨_, rfl, by simp⟩, rfl⟩
  · rw [h] at hvalue
    cases hvalue

theorem flushAnswer_of_script {s : State} {a : Answer Unit} {more : List (Answer Unit)}
    (h : s.script.flushes = a :: more) : flushAnswer s = a := by
  simp [flushAnswer, h, drawn]

/-- The state in which the overrun part of a tick has counted the tick. -/
def counted (s : State) : State := setUnread (s.rx.unreadLines + 1) (polled s)

theorem counted_flushes (s : State) : (counted s).script.flushes = s.script.flushes := by
  rw [counted, setUnread_script]
  unfold polled
  split
  · split
    · rfl
    · rfl
  · rfl

/-- The overrun part of a tick that counts: before the 200th it counts, at the 200th it forces (R80). -/
theorem beforeTx_counts {s : State} (hshut : ¬ GateOpen s) (hcount : 0 < (pollResult s).1) :
    (s.rx.unreadLines + 1 < 200 ∧ overrunFires (pollResult s).1 (polled s) = false ∧ beforeTx s = counted s) ∨
    (200 ≤ s.rx.unreadLines + 1 ∧ overrunFires (pollResult s).1 (polled s) = true ∧
      beforeTx s = forceOverrun (counted s)) := by
  have hcounts : overrunCounts (pollResult s).1 (polled s) = true :=
    (overrunCounts_iff _ _).mpr ⟨(gateOpen_polled s).not.mpr hshut, hcount⟩
  have hcases := rxOverrunTick_cases (pollResult s).1 (polled s)
  rw [polled_rx, hcounts] at hcases
  rcases hcases with ⟨hnot, -⟩ | ⟨-, hmore, hfires, h⟩ | ⟨-, hlast, hfires, h⟩
  · cases hnot
  · exact Or.inl ⟨hmore, hfires, h⟩
  · exact Or.inr ⟨hlast, hfires, h⟩

/-- A tick before the 200th of a run only counts. -/
theorem tickBody_counts (lc : Nat) {s : State} (hshut : ¬ GateOpen s) (hcount : 0 < (pollResult s).1)
    (hqueue : s.rx.receiveQueue = []) (hmore : s.rx.unreadLines + 1 < 200) :
    KeepsRegister (counted s) (tickBody lc s) := by
  rcases beforeTx_counts hshut hcount with ⟨-, -, hbefore⟩ | ⟨hlast, -⟩
  · rw [← hbefore]
    refine tickBody_keepsRegister lc ⟨?_, Or.inr ?_⟩
    · rw [hbefore, counted, setUnread_rx, polled_rx, hqueue]
    · rw [hbefore]
      exact (gateOpen_polled s).not.mpr hshut
  · omega

/-- The 200th tick of a run forces the overrun, and takes nothing after it. -/
theorem tickBody_forces (lc : Nat) {s : State} (hshut : ¬ GateOpen s) (hcount : 0 < (pollResult s).1)
    (hqueue : s.rx.receiveQueue = []) (hlast : 200 ≤ s.rx.unreadLines + 1) :
    beforeTx s = forceOverrun (counted s) ∧ KeepsRegister (forceOverrun (counted s)) (tickBody lc s) := by
  rcases beforeTx_counts hshut hcount with ⟨hmore, -⟩ | ⟨-, hfires, hbefore⟩
  · omega
  · refine ⟨hbefore, ?_⟩
    rw [← hbefore]
    refine tickBody_keepsRegister lc ⟨?_, Or.inl ?_⟩
    · rw [hbefore, forceOverrun_rx]
      simp only [overrunRx, counted, setUnread_rx, polled_rx, hqueue]
    · rw [countAfterOverrun, if_pos hfires]

/-- Settles O46: the counting ticks by `tickBody_counts`, the last by `tickBody_forces` and the answer to its flush. -/
theorem tickForcesTheOverrunAt200 : Obligations.TickForcesTheOverrunAt200 := by
  intro lc count brk s polls hext havail hrbf hexact hsafe hforced hdevice hqueue hcount hpoll
  have hresult := (polls_polled (Polls.answered count brk polls hext havail hpoll)).1
  have hwaiting : 0 < (pollResult s).1 := by rw [hresult]; exact hcount
  have hloop : s.session.transport ≠ .loopback := fun hl => by simp [hl, Transport.external] at hext
  have hshut : ¬ GateOpen s := by simp [GateOpen, hrbf, hexact, hsafe, hforced, hdevice, hloop]
  have hirq : (counted s).irq = s.irq := (polled_took s).irq
  refine ⟨_, exec_tick lc s, fun hmore => ?_, fun hlast => ?_⟩
  · have hkept := tickBody_counts lc hshut hwaiting hqueue hmore
    have hrx : (counted s).rx = { s.rx with unreadLines := s.rx.unreadLines + 1 } := by
      rw [counted, setUnread_rx, polled_rx]
    rw [hkept.unread, hkept.rbf, hkept.overrun, hkept.receiveReg, hkept.irq, hrx, hirq]
    exact ⟨rfl, hrbf, rfl, rfl, rfl⟩
  · obtain ⟨hbefore, hkept⟩ := tickBody_forces lc hshut hwaiting hqueue hlast
    have hrx := forceOverrun_rx (counted s)
    have hgrows := tickBody_grows_beforeTx lc s
    have hpolled : Grows s (counted s) := (polled_took s).frame.grows
    have hside : (counted s).side = s.side := (polled_took s).side
    refine ⟨by rw [hkept.overrun, hrx]; rfl, by rw [hkept.receiveReg, hrx]; rfl, by rw [hkept.rbf, hrx]; rfl,
      by rw [hkept.unread, hrx]; rfl, hkept.forgets (by rw [hrx]; rfl),
      by rw [hkept.irq, (forceOverrun_leavesReceiver _).irq, hirq], ?_⟩
    cases hflush : flushAnswer (counted s) with
    | failure =>
      obtain ⟨hemits, hlost⟩ := forceOverrun_flushFails hflush
      rw [← hbefore] at hemits hlost
      obtain ⟨new, hnew, hevents⟩ := (hemits.before hpolled hside).after hgrows
      exact ⟨new, hnew, hevents .flush (by simp), hevents (.log .overrun) (by simp), fun more _ =>
        ⟨tickBody_unavailable lc hlost, hevents (.log .transportFailed) (by simp)⟩⟩
    | value u =>
      have hemits := forceOverrun_emits (counted s)
      rw [← hbefore] at hemits
      obtain ⟨new, hnew, hevents⟩ := (hemits.before hpolled hside).after hgrows
      refine ⟨new, hnew, hevents .flush (by simp), hevents (.log .overrun) (by simp), fun more hmore => ?_⟩
      rw [flushAnswer_of_script ((counted_flushes s).trans hmore)] at hflush
      cases hflush

end Sys2Proof.Machine

/-! Transports with no backend are never asked: a tick on one draws no answer (R21, R94, R96). -/

namespace Sys2Proof.Machine

theorem finish_draws (t : Nat) (s : State) : (finish t s).draws = s.draws := by
  cases hpending : s.tx.dataPending
  · rw [finish_idle t s hpending]
  · rw [finish_loads t s hpending, load_draws]

theorem complete_draws (t : Nat) {s : State} (h : s.session.transport.external = false) :
    (complete t s).draws = s.draws := by
  rcases complete_cases t s with hc | ⟨hext, -⟩
  · rw [hc, finish_draws]
  · simp [h] at hext

theorem txTick_draws (t lc : Nat) {s : State} (h : s.session.transport.external = false) :
    (txTick t lc s).draws = s.draws := by
  rcases txTick_cases t lc s with ⟨-, ht⟩ | ⟨-, -, -, -, ht⟩ | ⟨-, -, -, -, ht⟩ | ⟨-, -, ht⟩ <;> rw [ht]
  · exact complete_draws t h
  · exact complete_draws t (s := { s with tx := { s.tx with txAccum := _ } }) h

theorem deliver_draws (w : Reg) (s : State) : (deliver w s).draws = s.draws := by rw [deliver_eq]

theorem takeWord_draws (count : Nat) {s : State} (h : s.session.transport.external = false) :
    (takeWord count s).draws = s.draws := by
  have hintake : intakeFromTransport count s = s := intakeFromTransport_closed count s (Or.inl h)
  unfold takeWord
  split
  · rw [hintake]
  · split
    · rw [hintake]
    · rw [deliver_draws]

theorem rxStep_draws (count : Nat) (brk : Bool) {s : State} (h : s.session.transport.external = false) :
    (rxStep count brk s).draws = s.draws := by
  unfold rxStep detectingStep
  simp only []
  split
  · rfl
  · split
    · split
      · rfl
      · rfl
    · split
      · exact takeWord_draws count (s := detectBreak s) h
      · exact takeWord_draws count h

theorem tickRx_draws (lc count : Nat) (brk : Bool) {s : State} (h : s.session.transport.external = false) :
    (tickRx lc count brk s).draws = s.draws := by
  by_cases hc : Crosses lc s
  · rw [tickRx_crossing lc count brk s hc]
    exact rxStep_draws count brk (s := accumulated _ s) h
  · rw [tickRx_waiting lc count brk s hc]
    rfl

theorem rxBreakTick_draws (s : State) : (rxBreakTick s).draws = s.draws := by
  rcases rxBreakTick_cases s with ⟨-, h⟩ | ⟨-, h⟩ | ⟨-, h⟩ <;> rw [h]

theorem breakTxTick_draws (t : Nat) (s : State) : (breakTxTick t s).draws = s.draws := by
  rcases breakTxTick_cases t s with ⟨-, h⟩ | ⟨-, h⟩ | ⟨-, -, h⟩ | ⟨-, -, -, h⟩ <;> rw [h]

theorem beforeTx_draws {s : State} (h : s.session.transport.external = false) : (beforeTx s).draws = s.draws := by
  have hnone : (pollResult s).1 = 0 := by
    by_contra hcount
    simp [(pollResult_pos (Nat.pos_of_ne_zero hcount)).1] at h
  unfold beforeTx
  rw [polled_closed s (Or.inl h), hnone]
  rcases rxOverrunTick_cases 0 s with ⟨-, -, ht⟩ | ⟨hcounts, -⟩ | ⟨hcounts, -⟩
  · rw [ht]
    rfl
  · simp [overrunCounts] at hcounts
  · simp [overrunCounts] at hcounts

theorem tickBody_draws (lc : Nat) {s : State} (h : s.session.transport.external = false) :
    (tickBody lc s).draws = s.draws := by
  have hbefore : (beforeTx s).session.transport.external = false := by
    rw [(beforeTx_offTransmit s).transport]
    exact h
  have htx : (txTick s.side.now lc (beforeTx s)).session.transport.external = false := by
    rw [(txTick_frame _ _ _).transport]
    exact hbefore
  rw [tickBody_eq_parts, breakTxTick_draws, rxBreakTick_draws, tickRx_draws lc _ _ htx, txTick_draws _ lc hbefore,
    beforeTx_draws h]

/-- Settles O48: the break the poll reports is the transmitter's own, so `tickBody_detects` applies, and Loopback has
no backend to ask. -/
theorem loopbackBreakReachesTheDetector : Obligations.LoopbackBreakReachesTheDetector := by
  intro lc s _ hloop hbreak hclear hcrosses
  obtain ⟨hcounter, hdelay, new, hnew, hlogs⟩ := tickBody_detects lc hclear hcrosses (Or.inl ⟨hloop, hbreak⟩)
  have hext : s.session.transport.external = false := by rw [hloop]; rfl
  refine ⟨_, exec_tick lc s, hcounter, hdelay, tickBody_draws lc hext, ⟨new, hnew, ?_⟩, ?_⟩
  · exact (hlogs .breakDetected rfl).mpr (List.mem_singleton_self _)
  · rw [serdatrWord_getLsbD]
    simp [flagRXD, hcounter]

end Sys2Proof.Machine

/-! Failures and error codes of one stimulus (R95, R103, R106): after a Failure the backend is unavailable, and nothing
calls an unavailable backend, so a stimulus fails at most once; of the other error codes each operation counts its
own. -/

namespace Sys2Proof.Machine

/-- What a stretch of the history holds when the backend is available before it as `before` says and after it as `after`
says: no call follows a failed one, at most one Failure is logged, and beside it at most `own` error codes. -/
structure OrderlyEntries (own : Nat) (before after : Bool) (new : List Entry) : Prop where
  order : new.Pairwise fun x y => x.isFailedCall = true → y.isCall = false
  once : countEvent (.log .transportFailed) new ≤ 1
  codes : new.countP Entry.isErrorCode ≤ countEvent (.log .transportFailed) new + own
  intact : after = true →
    before = true ∧ (∀ x ∈ new, x.isFailedCall = false) ∧ countEvent (.log .transportFailed) new = 0
  closed : before = false → (∀ x ∈ new, x.isCall = false) ∧ countEvent (.log .transportFailed) new = 0

/-- From `s` to `t` the history has grown by such a stretch. -/
def Orderly (own : Nat) (s t : State) : Prop :=
  ∃ new, t.history = s.history ++ new ∧ OrderlyEntries own s.session.available t.session.available new

theorem countEvent_append (e : Event) (a b : List Entry) : countEvent e (a ++ b) = countEvent e a + countEvent e b :=
  List.countP_append

/-- A backend that is there after the first stretch has not failed in it; one that is not is not called in the
second. -/
theorem OrderlyEntries.append {m n : Nat} {b0 b1 b2 : Bool} {first second : List Entry}
    (h1 : OrderlyEntries m b0 b1 first) (h2 : OrderlyEntries n b1 b2 second) :
    OrderlyEntries (m + n) b0 b2 (first ++ second) := by
  have hcodes : (first ++ second).countP Entry.isErrorCode ≤
      countEvent (.log .transportFailed) (first ++ second) + (m + n) := by
    have hfirst := h1.codes
    have hsecond := h2.codes
    rw [List.countP_append, countEvent_append]
    omega
  cases hmiddle : b1 with
  | true =>
    obtain ⟨hthere, hunfailed, hnone⟩ := h1.intact hmiddle
    refine ⟨List.pairwise_append.mpr ⟨h1.order, h2.order, fun x hx y _ hfailed => ?_⟩, ?_, hcodes, fun hafter => ?_,
      fun hbefore => ?_⟩
    · rw [hunfailed x hx] at hfailed
      cases hfailed
    · rw [countEvent_append, hnone, Nat.zero_add]
      exact h2.once
    · obtain ⟨-, hunfailed', hnone'⟩ := h2.intact hafter
      exact ⟨hthere, fun x hx => (List.mem_append.mp hx).elim (hunfailed x) (hunfailed' x), by
        rw [countEvent_append, hnone, hnone']⟩
    · rw [hthere] at hbefore
      cases hbefore
  | false =>
    obtain ⟨huncalled, hnone⟩ := h2.closed hmiddle
    refine ⟨List.pairwise_append.mpr ⟨h1.order, h2.order, fun _ _ y hy _ => huncalled y hy⟩, ?_, hcodes,
      fun hafter => ?_, fun hbefore => ?_⟩
    · rw [countEvent_append, hnone, Nat.add_zero]
      exact h1.once
    · have hthere := (h2.intact hafter).1
      rw [hmiddle] at hthere
      cases hthere
    · obtain ⟨huncalled', hnone'⟩ := h1.closed hbefore
      exact ⟨fun x hx => (List.mem_append.mp hx).elim (huncalled' x) (huncalled x), by
        rw [countEvent_append, hnone, hnone']⟩

theorem Orderly.trans {m n : Nat} {s t u : State} (h1 : Orderly m s t) (h2 : Orderly n t u) : Orderly (m + n) s u := by
  obtain ⟨first, hfirst, horderly⟩ := h1
  obtain ⟨second, hsecond, horderly'⟩ := h2
  exact ⟨first ++ second, by rw [hsecond, hfirst, List.append_assoc], horderly.append horderly'⟩

/-- A stretch without calls and Failures is orderly, unless it makes the backend available. -/
theorem Orderly.of_events {own : Nat} {s t : State} (new : List Entry) (hnew : t.history = s.history ++ new)
    (hafter : t.session.available = true → s.session.available = true) (huncalled : ∀ x ∈ new, x.isCall = false)
    (hnone : countEvent (.log .transportFailed) new = 0) (hcodes : new.countP Entry.isErrorCode ≤ own) :
    Orderly own s t := by
  have hunfailed : ∀ x ∈ new, x.isFailedCall = false := fun x hx => by
    have hcall := huncalled x hx
    cases hrecord : x.record <;> simp_all [Entry.isCall, Entry.isFailedCall]
  refine ⟨new, hnew, List.pairwise_of_forall_mem_list fun x _ y hy _ => huncalled y hy, by omega, by omega,
    fun hthere => ⟨hafter hthere, hunfailed, hnone⟩, fun _ => ⟨huncalled, hnone⟩⟩

/-- The entry is an oracle call or reports an error code. -/
def Entry.isTrouble (x : Entry) : Bool := x.isCall || x.isErrorCode

theorem MakesNo.orderly {s t : State} (h : MakesNo Entry.isTrouble s t)
    (hafter : t.session.available = true → s.session.available = true) : Orderly 0 s t := by
  obtain ⟨new, hnew, hnone⟩ := h
  have hentry : ∀ x ∈ new, x.isCall = false ∧ x.isErrorCode = false := fun x hx => by
    simpa [Entry.isTrouble] using hnone x hx
  refine .of_events new hnew hafter (fun x hx => (hentry x hx).1) (List.countP_eq_zero.mpr fun x hx hfailed => ?_)
    (List.countP_eq_zero.mpr fun x hx => by simp [(hentry x hx).2]).le
  have hcode := (hentry x hx).2
  simp [Entry.isErrorCode, of_decide_eq_true hfailed, LogReason.isErrorCode] at hcode

theorem Orderly.refl (s : State) : Orderly 0 s s := (MakesNo.refl s).orderly id

/-- The engine's record but for its session is not in the history. -/
theorem Orderly.record (s : State) {baud : Baud} {tx : Tx} {rx : Rx} {irq : Irq} {lines : Lines} :
    Orderly 0 s { s with baud := baud, tx := tx, rx := rx, irq := irq, lines := lines } :=
  (MakesNo.refl s).orderly id

theorem Orderly.emit (e : Event) (s : State) (h : (eventEntry s e).isTrouble = false) : Orderly 0 s (emit e s) :=
  (MakesNo.emit e s h).orderly id

/-- A log of an error code other than the Failure. -/
theorem Orderly.logged (r : LogReason) (s : State) (h : r ≠ .transportFailed) : Orderly 1 s (logReason r s) := by
  refine .of_events [eventEntry s (.log r)] rfl id (by simp [eventEntry, Entry.isCall]) ?_ List.countP_le_length
  simp [countEvent, eventEntry, h]

/-- A call that is answered. -/
theorem Orderly.answered {x : Exchange} (rest : Script) {s : State} (havail : s.session.available = true)
    (hanswered : x.failed = false) : Orderly 0 s (called x rest s) := by
  refine ⟨[callEntry s x], rfl, ⟨List.pairwise_singleton _ _, by simp [countEvent, callEntry],
    by simp [callEntry, Entry.isErrorCode], fun _ => ⟨havail, by simpa [callEntry, Entry.isFailedCall] using hanswered,
      by simp [countEvent, callEntry]⟩, fun hclosed => ?_⟩⟩
  rw [havail] at hclosed
  cases hclosed

/-- A call that fails: the Failure is logged once, and the backend is unavailable from here on (R95). -/
theorem Orderly.failed {x : Exchange} (rest : Script) {s : State} (havail : s.session.available = true) :
    Orderly 0 s (transportFailed (called x rest s)) := by
  refine ⟨[callEntry s x, eventEntry s (.log .transportFailed)], by simp [called, callEntry, eventEntry],
    ⟨by simp [eventEntry, Entry.isCall], by simp [countEvent, callEntry, eventEntry],
      by simp [countEvent, callEntry, eventEntry, Entry.isErrorCode, LogReason.isErrorCode], fun hthere => ?_,
      fun hclosed => ?_⟩⟩
  · cases hthere
  · rw [havail] at hclosed
    cases hclosed

/-! The transmit pipeline -/

/-- A load makes the transmit interrupt and requests callbacks (R57, R59). -/
theorem loadEvents_cases {t : Nat} {s : State} {x : Entry} (h : x ∈ loadEvents t s) :
    x = eventEntry s .irqTBE ∨ ∃ kind cycle gen, x = eventEntry s (.schedule kind cycle gen) := by
  simp only [loadEvents, List.mem_append, List.mem_singleton] at h
  rcases h with (h | h) | h
  · exact Or.inl h
  · split at h
    · exact Or.inr ⟨_, _, _, List.mem_singleton.mp h⟩
    · cases h
  · split at h
    · exact Or.inr ⟨_, _, _, List.mem_singleton.mp h⟩
    · cases h

theorem load_orderly (t : Nat) (s : State) : Orderly 0 s (load t s) := by
  refine MakesNo.orderly ⟨loadEvents t s, load_history t s, fun x hx => ?_⟩ (by rw [load_session]; exact id)
  rcases loadEvents_cases hx with rfl | ⟨kind, cycle, gen, rfl⟩
  · rfl
  · rfl

theorem finish_orderly (t : Nat) (s : State) : Orderly 0 s (finish t s) := by
  cases hpending : s.tx.dataPending with
  | false => rw [finish_idle t s hpending]; exact .record s
  | true => rw [finish_loads t s hpending]; exact (Orderly.record s).trans (load_orderly t _)

theorem writeRest_orderly (t : Nat) (rest : List Byte) {s : State} (havail : s.session.available = true) :
    Orderly 0 s (writeRest t rest s) := by
  cases h : writeAnswer rest s with
  | failure =>
    rw [writeRest_failure t rest s h]
    exact (Orderly.failed _ havail).trans (finish_orderly t _)
  | value m =>
    have hcall : Orderly 0 s (calledWrite rest s) := .answered _ havail (by simp [Exchange.failed, h])
    have hwrote : Orderly 0 s (wrote rest m s) := (hcall.trans (.emit (.write rest m) _ rfl)).trans (.record _)
    rw [writeRest_value t rest m s h]
    split
    · exact hwrote.trans (.record _)
    · exact hwrote.trans (finish_orderly t _)

theorem tryEmit_orderly (t : Nat) {s : State} (havail : s.session.available = true) : Orderly 0 s (tryEmit t s) := by
  unfold tryEmit
  simp only []
  split
  · exact (Orderly.failed _ havail).trans (finish_orderly t _)
  · next h => exact (Orderly.answered _ havail (by simp [Exchange.failed, h])).trans (.record _)
  · next h => exact (Orderly.answered _ havail (by simp [Exchange.failed, h])).trans (writeRest_orderly t _ havail)

theorem complete_orderly (t : Nat) (s : State) : Orderly 0 s (complete t s) := by
  rcases complete_cases t s with h | ⟨-, havail, h⟩ <;> rw [h]
  · exact finish_orderly t s
  · exact tryEmit_orderly t havail

theorem txTick_orderly (t lc : Nat) (s : State) : Orderly 0 s (txTick t lc s) := by
  rcases txTick_cases t lc s with ⟨-, h⟩ | ⟨-, -, -, -, h⟩ | ⟨-, -, -, -, h⟩ | ⟨-, -, h⟩ <;> rw [h]
  · exact complete_orderly t s
  · exact (Orderly.record s).trans (complete_orderly t _)
  · exact .record s
  · exact .refl s

theorem breakTxTick_orderly (t : Nat) (s : State) : Orderly 0 s (breakTxTick t s) := by
  rcases breakTxTick_cases t s with ⟨-, h⟩ | ⟨-, h⟩ | ⟨-, -, h⟩ | ⟨-, -, -, h⟩ <;> rw [h]
  · exact .refl s
  · exact .record s
  · exact (Orderly.emit (.log .breakWindowEnd) s rfl).trans (.record _)
  · refine MakesNo.orderly ⟨_, rfl, ?_⟩ id
    simp [eventEntry, Entry.isTrouble, Entry.isCall, Entry.isErrorCode, LogReason.isErrorCode]

end Sys2Proof.Machine

/-! The receive part of a tick makes one error code, a Failure or its own, and none where nothing is counted. -/

namespace Sys2Proof.Machine

/-- From `s` to `t` no error code but a Failure, or, where bytes are waiting, one of the receiver on a backend that
has not failed. -/
def OneCodeIfWaiting (count : Nat) (s t : State) : Prop :=
  Orderly 0 s t ∨ (0 < count ∧ Orderly 1 s t ∧ t.session.available = true)

theorem Orderly.oneCode {s t : State} (h : Orderly 0 s t) (count : Nat) : OneCodeIfWaiting count s t := Or.inl h

theorem OneCodeIfWaiting.before {count : Nat} {s r t : State} (h1 : Orderly 0 s r) (h2 : OneCodeIfWaiting count r t) :
    OneCodeIfWaiting count s t := by
  rcases h2 with h | ⟨hcount, h, havail⟩
  · exact Or.inl (h1.trans h)
  · exact Or.inr ⟨hcount, h1.trans h, havail⟩

theorem OneCodeIfWaiting.after {count : Nat} {s r t : State} (h1 : OneCodeIfWaiting count s r) (h2 : Orderly 0 r t)
    (hsession : t.session = r.session) : OneCodeIfWaiting count s t := by
  rcases h1 with h | ⟨hcount, h, havail⟩
  · exact Or.inl (h.trans h2)
  · exact Or.inr ⟨hcount, h.trans h2, by rw [hsession]; exact havail⟩

/-- A delivery makes one entry at most: the receive interrupt where the register was empty, the log of a word dropped
where it was full (R79). -/
theorem deliveredEvents_cases (s : State) : deliveredEvents s = [] ∨
    (s.rx.rbf = false ∧ deliveredEvents s = [eventEntry s .irqRBF]) ∨
    (s.rx.rbf = true ∧ deliveredEvents s = [eventEntry s (.log .rxQueueOverflow)]) := by
  unfold deliveredEvents
  cases s.rx.rbf
  · cases s.irq.rbfUnacked
    · exact Or.inr (Or.inl ⟨rfl, rfl⟩)
    · exact Or.inl rfl
  · by_cases hroom : s.rx.receiveQueue.length < s.par.rxQueueCap
    · exact Or.inl (if_pos hroom)
    · exact Or.inr (Or.inr ⟨rfl, if_neg hroom⟩)

theorem deliver_history (w : Reg) (s : State) : (deliver w s).history = s.history ++ deliveredEvents s := by
  rw [deliver_eq]

/-- A delivery into the empty register makes no error code (R79). -/
theorem deliver_toRegister_orderly (w : Reg) {s : State} (hempty : s.rx.rbf = false) : Orderly 0 s (deliver w s) := by
  refine MakesNo.orderly ⟨_, deliver_history w s, ?_⟩ (by rw [deliver_session]; exact id)
  rcases deliveredEvents_cases s with h | ⟨-, h⟩ | ⟨hfull, -⟩
  · simp [h]
  · simp [h, eventEntry, Entry.isTrouble, Entry.isCall, Entry.isErrorCode]
  · rw [hempty] at hfull
    cases hfull

/-- A delivery makes one error code at most, and calls nothing (R79). -/
theorem deliver_orderly (w : Reg) (s : State) : Orderly 1 s (deliver w s) := by
  refine .of_events _ (deliver_history w s) (by rw [deliver_session]; exact id) ?_ ?_ ?_
  all_goals
    rcases deliveredEvents_cases s with h | ⟨-, h⟩ | ⟨-, h⟩ <;>
      simp [h, countEvent, eventEntry, Entry.isCall, Entry.isErrorCode, LogReason.isErrorCode]

theorem deliver_oneCode (w : Reg) {count : Nat} {s : State} (hcount : 0 < count)
    (havail : s.session.available = true) : OneCodeIfWaiting count s (deliver w s) :=
  Or.inr ⟨hcount, deliver_orderly w s, by rw [deliver_session]; exact havail⟩

/-- A read of one byte, where what is done with the byte makes one error code at most. -/
theorem afterRead_oneCode {took : Byte → State → State} {count : Nat} {s : State} (havail : s.session.available = true)
    (htook : ∀ b r, r.session.available = true → OneCodeIfWaiting count r (took b r)) :
    OneCodeIfWaiting count s (afterRead took s) := by
  have hcall : readAnswer 1 s ≠ .failure → Orderly 0 s (calledRead 1 s) := fun h =>
    .answered _ havail (by simpa [Exchange.failed] using h)
  unfold afterRead
  split
  · exact (Orderly.failed _ havail).oneCode count
  · next h => exact (hcall (by simp [h])).oneCode count
  · next b _ h => exact .before (hcall (by simp [h])) (htook b _ havail)

theorem acceptByte_oneCode (b : Byte) {count : Nat} {s : State} (hcount : 0 < count)
    (havail : s.session.available = true) : OneCodeIfWaiting count s (acceptByte b s) := by
  unfold acceptByte
  split
  · exact (Orderly.refl s).oneCode count
  · exact deliver_oneCode _ hcount havail

theorem intake8_oneCode (count : Nat) {s : State} (havail : s.session.available = true) :
    OneCodeIfWaiting count s (intake8 count s) := by
  have hforgets : Orderly 0 s (setPrefix none s) := .record s
  rw [intake8_eq]
  split
  · exact hforgets.oneCode count
  · next hcount =>
    exact .before hforgets (afterRead_oneCode (s := setPrefix none s) havail fun b _ hr =>
      acceptByte_oneCode b (Nat.pos_of_ne_zero hcount) hr)

theorem intake9Data_oneCode (n : Bool) {count' count : Nat} (hcount : count' ≤ count) {s : State}
    (havail : s.session.available = true) : OneCodeIfWaiting count s (intake9Data n count' s) := by
  rw [intake9Data_eq]
  split
  · exact (Orderly.refl s).oneCode count
  · next hne =>
    exact afterRead_oneCode havail fun d r hr =>
      .before (r := setPrefix none r) (.record r) (deliver_oneCode _ (by omega) hr)

/-- A first byte that fails the check is logged, and no second one is read (R78). -/
theorem intake9Prefix_oneCode (count : Nat) {s : State} (havail : s.session.available = true) :
    OneCodeIfWaiting count s (intake9Prefix count s) := by
  rw [intake9Prefix_eq]
  split
  · exact (Orderly.refl s).oneCode count
  · next hcount =>
    refine afterRead_oneCode havail fun p r hr => ?_
    unfold takePrefix
    split
    · exact .before (r := setPrefix _ r) (.record r) (intake9Data_oneCode _ (Nat.sub_le _ _) hr)
    · exact Or.inr ⟨Nat.pos_of_ne_zero hcount, .logged .frameDesync r (by decide), hr⟩

theorem intakeFromTransport_oneCode (count : Nat) (s : State) :
    OneCodeIfWaiting count s (intakeFromTransport count s) := by
  have hrefl := (Orderly.refl s).oneCode count
  unfold intakeFromTransport
  split
  · exact hrefl
  · split
    · exact hrefl
    · next hopen =>
      have havail : s.session.available = true := by
        cases h : s.session.available
        · simp [h] at hopen
        · rfl
      split
      · cases hprefix : s.rx.rxPrefix with
        | none => rw [intake9_unprefixed count hprefix]; exact intake9Prefix_oneCode count havail
        | some n => rw [intake9_prefixed count hprefix]; exact intake9Data_oneCode n (le_refl _) havail
      · exact intake8_oneCode count havail

theorem takeWord_oneCode (count : Nat) (s : State) : OneCodeIfWaiting count s (takeWord count s) := by
  unfold takeWord
  split
  · exact intakeFromTransport_oneCode count s
  · next w rest _ =>
    split
    · exact intakeFromTransport_oneCode count s
    · next hempty =>
      have hpop : Orderly 0 s { s with rx := { s.rx with receiveQueue := rest } } := .record s
      exact .before hpop ((deliver_toRegister_orderly w (by simpa using hempty)).oneCode count)

theorem detectingStep_orderly (s : State) : Orderly 0 s (detectingStep s) := by
  unfold detectingStep
  simp only []
  split
  · exact (Orderly.record s).trans (.emit (.log .breakHold) _ rfl)
  · exact .record s

theorem rxStep_oneCode (count : Nat) (brk : Bool) (s : State) : OneCodeIfWaiting count s (rxStep count brk s) := by
  unfold rxStep
  split
  · exact (Orderly.refl s).oneCode count
  · split
    · exact (detectingStep_orderly s).oneCode count
    · split
      · have hdetect : Orderly 0 s (detectBreak s) := (Orderly.record s).trans (.emit (.log .breakDetected) _ rfl)
        exact .before hdetect (takeWord_oneCode count _)
      · exact takeWord_oneCode count s

theorem tickRx_oneCode (lc count : Nat) (brk : Bool) (s : State) :
    OneCodeIfWaiting count s (tickRx lc count brk s) := by
  have haccum : ∀ n, Orderly 0 s (accumulated n s) := fun _ => .record s
  by_cases hc : Crosses lc s
  · rw [tickRx_crossing lc count brk s hc]
    exact .before (haccum _) (rxStep_oneCode count brk _)
  · rw [tickRx_waiting lc count brk s hc]
    exact (haccum _).oneCode count

theorem rxBreakTick_session (s : State) : (rxBreakTick s).session = s.session := by
  rcases rxBreakTick_cases s with ⟨-, h⟩ | ⟨-, h⟩ | ⟨-, h⟩ <;> rw [h]

theorem rxBreakTick_orderly (s : State) : Orderly 0 s (rxBreakTick s) := by
  rcases rxBreakTick_cases s with ⟨-, h⟩ | ⟨-, h⟩ | ⟨-, h⟩ <;> rw [h]
  · exact .refl s
  · exact .record s
  · exact (Orderly.emit (.log .breakClear) s rfl).trans (.record _)

theorem breakTxTick_session (t : Nat) (s : State) : (breakTxTick t s).session = s.session := by
  rcases breakTxTick_cases t s with ⟨-, h⟩ | ⟨-, h⟩ | ⟨-, -, h⟩ | ⟨-, -, -, h⟩ <;> rw [h]

end Sys2Proof.Machine

/-! Error codes, stimulus by stimulus: one at most, but for a tick that forces an overrun beside a Failure (log 9). -/

namespace Sys2Proof.Machine

/-! The poll and the overrun -/

theorem polled_orderly (s : State) : Orderly 0 s (polled s) := by
  unfold polled
  split
  · next hasks =>
    have havail : s.session.available = true := by
      simp only [pollAsks, Bool.and_eq_true] at hasks
      exact hasks.2
    split
    · exact .failed _ havail
    · next h => exact .answered _ havail (by simp [Exchange.failed, h])
  · exact .refl s

/-- A poll that counts bytes leaves the backend available (R96). -/
theorem polled_available {s : State} (h : 0 < (pollResult s).1) : (polled s).session.available = true := by
  obtain ⟨-, havail, hanswer⟩ := pollResult_pos h
  unfold polled
  rw [hanswer]
  split
  · exact havail
  · exact havail

/-- An overrun is logged once, beside the Failure its flush may be (R80; log 9). -/
theorem forceOverrun_orderly {s : State} (havail : s.session.available = true) : Orderly 1 s (forceOverrun s) := by
  have hflush : Orderly 0 s (flushTransport s) := by
    unfold flushTransport
    split
    · exact (Orderly.failed _ havail).trans (.emit .flush _ rfl)
    · next h => exact (Orderly.answered _ havail (by simp [Exchange.failed, h])).trans (.emit .flush _ rfl)
  exact (hflush.trans (.record _)).trans (.logged .overrun (overrunRegister (flushTransport s)) (by decide))

/-- The overrun part of a tick makes an error code of its own where it forces an overrun. -/
theorem beforeTx_orderly (s : State) :
    (overrunFires (pollResult s).1 (polled s) = false ∧ Orderly 0 s (beforeTx s)) ∨
    (overrunFires (pollResult s).1 (polled s) = true ∧ Orderly 1 s (beforeTx s) ∧
      Emits [.flush, .log .overrun] s (beforeTx s)) := by
  have hpolled := polled_orderly s
  have hcounted : ∀ n, Orderly 0 s (setUnread n (polled s)) := fun _ => hpolled.trans (.record _)
  unfold beforeTx
  rcases rxOverrunTick_cases (pollResult s).1 (polled s) with ⟨-, hfires, h⟩ | ⟨-, -, hfires, h⟩ |
    ⟨hcounts, -, hfires, h⟩ <;> rw [h]
  · exact Or.inl ⟨hfires, hcounted _⟩
  · exact Or.inl ⟨hfires, hcounted _⟩
  · have havail := polled_available ((overrunCounts_iff _ _).mp hcounts).2
    exact Or.inr ⟨hfires, (hcounted ((polled s).rx.unreadLines + 1)).trans (forceOverrun_orderly havail),
      .before (polled_took s).frame.grows (polled_took s).side (forceOverrun_emits (setUnread _ (polled s)))⟩

/-! The tick -/

/-- After its overrun part a tick makes one error code at most, and only a Failure where that part has forced an
overrun (R90). -/
theorem tickBody_oneCode_beforeTx (lc : Nat) (s : State) :
    OneCodeIfWaiting (countAfterOverrun (pollResult s).1 (polled s)) (beforeTx s) (tickBody lc s) := by
  rw [tickBody_eq_parts]
  exact ((OneCodeIfWaiting.before (txTick_orderly _ lc _) (tickRx_oneCode lc _ _ _)).after (rxBreakTick_orderly _)
    (rxBreakTick_session _)).after (breakTxTick_orderly _ _) (breakTxTick_session _ _)

theorem tickBody_orderly (lc : Nat) (s : State) :
    (∃ count, OneCodeIfWaiting count s (tickBody lc s)) ∨
    (Orderly 1 s (tickBody lc s) ∧ Emits [.flush, .log .overrun] s (tickBody lc s)) := by
  have hrest := tickBody_oneCode_beforeTx lc s
  rcases beforeTx_orderly s with ⟨-, hbefore⟩ | ⟨hfires, hbefore, hemits⟩
  · exact Or.inl ⟨_, .before hbefore hrest⟩
  · rw [countAfterOverrun, if_pos hfires] at hrest
    rcases hrest with hrest | ⟨hcount, -⟩
    · exact Or.inr ⟨hbefore.trans hrest, hemits.after (tickBody_grows_beforeTx lc s)⟩
    · cases hcount

/-! The other stimuli -/

theorem writePeriod_orderly (w : Reg) (s : State) : Orderly 0 s (writePeriod w s) := by
  have hset : Orderly 0 s (setPeriod w s) :=
    (Orderly.record s)
      |>.trans (.emit (.applyBaud (appliedRate s.par.baudTable w)) _ rfl)
      |>.trans (.emit (.log .baudSet) _ rfl)
      |>.trans (.record _)
  have hrescale : ∀ t newBT r, Orderly 0 r (rescale t newBT r) := fun t newBT r => by
    unfold rescale rescaleRemainder
    split
    · exact .refl r
    · split
      · split
        · exact .record r
        · exact ((Orderly.record r).trans (.emit (.schedule .txDone _ _) _ rfl)).trans (.record _)
      · exact .record r
  rcases writePeriod_cases w s with h | h | ⟨-, h⟩ <;> rw [h]
  · exact .refl s
  · exact hset
  · exact hset.trans (hrescale _ _ _)

theorem writeData_orderly (w : Reg) (s : State) : Orderly 0 s (writeData w s) := by
  have hheld : Orderly 0 s (held w s) := by
    unfold held
    simp only []
    split
    · exact (Orderly.emit (.log .holdingOverwritten) s rfl).trans (.record _)
    · exact .record s
  rw [writeData_eq]
  split
  · exact hheld.trans (load_orderly _ _)
  · exact hheld

theorem fireTxDone_orderly (s : State) : Orderly 0 s (fireTxDone s) := by
  rw [fireTxDone_eq]
  split
  · exact complete_orderly _ s
  · exact .refl s

theorem assertBreak_orderly (s : State) : Orderly 0 s (assertBreak s) := by
  rcases assertBreak_cases s with h | ⟨-, h⟩ | ⟨-, rem, h⟩ <;> rw [h]
  · exact .refl s
  · exact (Orderly.emit (.log .breakOn) s rfl).trans (.record _)
  · exact (Orderly.emit (.log .breakOn) s rfl).trans (.record _)

theorem clearBreak_orderly (s : State) : Orderly 0 s (clearBreak s) :=
  (Orderly.record s).trans (.emit (.log .breakOff) _ rfl)

theorem readData_orderly (s : State) : Orderly 0 s (readData s) := by
  refine MakesNo.orderly ?_ ?_
  · unfold readData
    rw [clearRead_eq]
    refine ⟨_, rfl, ?_⟩
    split <;> simp [eventEntry, Entry.isTrouble, Entry.isCall, Entry.isErrorCode]
  · rw [readData, clearRead_eq]
    exact id

theorem readStatus_orderly (dir cur : Byte) (s : State) : Orderly 0 s (readStatus dir cur s) := by
  have hsource : Orderly 0 s (afterSource s) := by
    unfold afterSource
    split
    · next hconnected =>
      have havail := ((linesConnected_iff s).mp hconnected).2
      split
      · exact .failed _ havail
      · next h => exact .answered _ havail (by simp [Exchange.failed, h])
    · exact .refl s
  exact hsource.trans ((MakesNo.of_history_eq rfl).orderly id)

theorem writeStatus_orderly (dir val : Byte) (s : State) : Orderly 0 s (writeStatus dir val s) := by
  have hforward : ∀ dtr rts r, Orderly 0 r (forwardLines dtr rts r) := fun dtr rts r => by
    unfold forwardLines
    split
    · next hconnected =>
      have havail := ((linesConnected_iff r).mp hconnected).2
      split
      · exact .failed _ havail
      · next h =>
        exact (Orderly.answered _ havail (by simp [Exchange.failed, h])).trans (.emit (.setLines dtr rts) _ rfl)
    · exact .refl r
  unfold writeStatus
  simp only []
  split
  · exact .refl s
  · exact (Orderly.record s).trans (hforward _ _ _)

theorem scheduleNextEcho_orderly (s : State) : Orderly 0 s (scheduleNextEcho s) := by
  rcases scheduleNextEcho_eq s with h | ⟨e, rest, -, h⟩ <;> rw [h]
  · exact .refl s
  · exact .emit (.schedule .loopbackRx _ _) s rfl

theorem fireLoopback_orderly (s : State) : Orderly 1 s (fireLoopback s) := by
  rcases fireLoopback_cases s with h | ⟨e, rest, -, h⟩ <;> rw [h]
  · exact .of_events [] (by simp) id (by simp) rfl (Nat.zero_le 1)
  · exact ((Orderly.record s).trans (deliver_orderly e.word _)).trans (scheduleNextEcho_orderly _)

theorem fireLoopback_session (s : State) : (fireLoopback s).session = s.session := by
  rcases fireLoopback_delivers s with h | ⟨e, rest, history, -, h⟩ <;> rw [h]
  exact deliver_session _ _

theorem closeBody_orderly (s : State) : Orderly 0 s (closeBody s) :=
  MakesNo.orderly ⟨[eventEntry s (.log .closed)], rfl, by
    simp [eventEntry, Entry.isTrouble, Entry.isCall, Entry.isErrorCode, LogReason.isErrorCode]⟩ (fun h => by cases h)

end Sys2Proof.Machine

/-! Interrupts of one stimulus (R106): the transmit part of a tick makes the transmit events, its receive part the
receive events, and each raises its interrupt once at most. -/

namespace Sys2Proof.Machine

/-- From `s` to `t` the history has grown by entries of which none is `barred`, and `e` stands at most `n` times among
them. -/
def Raises (barred : Entry → Bool) (e : Event) (n : Nat) (s t : State) : Prop :=
  ∃ new, t.history = s.history ++ new ∧ (∀ x ∈ new, barred x = false) ∧ countEvent e new ≤ n

/-- No receive event, and at most `n` transmit interrupts. -/
abbrev TransmitSide (n : Nat) (s t : State) : Prop := Raises Entry.isReceive .irqTBE n s t

/-- No transmit event, and at most `n` receive interrupts. -/
abbrev ReceiveSide (n : Nat) (s t : State) : Prop := Raises Entry.isTransmit .irqRBF n s t

theorem Raises.trans {barred : Entry → Bool} {e : Event} {m n : Nat} {s t u : State} (h1 : Raises barred e m s t)
    (h2 : Raises barred e n t u) : Raises barred e (m + n) s u := by
  obtain ⟨first, hfirst, hbarred, hcount⟩ := h1
  obtain ⟨second, hsecond, hbarred', hcount'⟩ := h2
  refine ⟨first ++ second, by rw [hsecond, hfirst, List.append_assoc],
    fun x hx => (List.mem_append.mp hx).elim (hbarred x) (hbarred' x), ?_⟩
  rw [countEvent_append]
  omega

theorem Raises.of_history_eq {barred : Entry → Bool} {e : Event} {s t : State} (n : Nat)
    (h : t.history = s.history) : Raises barred e n s t := ⟨[], by simp [h], by simp, Nat.zero_le n⟩

/-- The entry is an interrupt or a write. -/
def Entry.isPipelineEvent (x : Entry) : Bool := x.isTransmit || x.isReceive

theorem countEvent_eq_zero {e : Event} {new : List Entry} (h : ∀ x ∈ new, x.record ≠ .event e) :
    countEvent e new = 0 :=
  List.countP_eq_zero.mpr fun x hx => by simpa using h x hx

theorem MakesNo.transmitSide {s t : State} (h : MakesNo Entry.isPipelineEvent s t) : TransmitSide 0 s t := by
  obtain ⟨new, hnew, hnone⟩ := h
  have hentry : ∀ x ∈ new, x.isTransmit = false ∧ x.isReceive = false := fun x hx => by
    simpa [Entry.isPipelineEvent] using hnone x hx
  refine ⟨new, hnew, fun x hx => (hentry x hx).2, (countEvent_eq_zero fun x hx hrecord => ?_).le⟩
  have htransmit := (hentry x hx).1
  simp [Entry.isTransmit, hrecord] at htransmit

theorem MakesNo.receiveSide {s t : State} (h : MakesNo Entry.isPipelineEvent s t) : ReceiveSide 0 s t := by
  obtain ⟨new, hnew, hnone⟩ := h
  have hentry : ∀ x ∈ new, x.isTransmit = false ∧ x.isReceive = false := fun x hx => by
    simpa [Entry.isPipelineEvent] using hnone x hx
  refine ⟨new, hnew, fun x hx => (hentry x hx).1, (countEvent_eq_zero fun x hx hrecord => ?_).le⟩
  have hreceive := (hentry x hx).2
  simp [Entry.isReceive, hrecord] at hreceive

/-- A poll or an intake makes calls and logs only. -/
theorem Took.noPipelineEvent {s t : State} (h : Took s t) : MakesNo Entry.isPipelineEvent s t := by
  obtain ⟨new, hnew, -, hkind, -⟩ := h.history
  refine ⟨new, hnew, fun e he => ?_⟩
  rcases hkind e he with ⟨x, hx⟩ | ⟨x, hx⟩ <;>
    simp [Entry.isPipelineEvent, Entry.isTransmit, Entry.isReceive, hx]

/-! The transmit side -/

theorem beforeTx_transmitSide (s : State) : TransmitSide 0 s (beforeTx s) := by
  have hcounted : ∀ n, MakesNo Entry.isPipelineEvent s (setUnread n (polled s)) := fun _ =>
    (polled_took s).noPipelineEvent.trans (.of_history_eq rfl)
  refine MakesNo.transmitSide ?_
  unfold beforeTx
  rcases rxOverrunTick_cases (pollResult s).1 (polled s) with ⟨-, -, h⟩ | ⟨-, -, -, h⟩ | ⟨-, -, -, h⟩ <;> rw [h]
  · exact hcounted _
  · exact hcounted _
  · refine (hcounted ((polled s).rx.unreadLines + 1)).trans ?_
    rcases forceOverrun_cases (setUnread ((polled s).rx.unreadLines + 1) (polled s)) with ⟨-, h⟩ | ⟨-, h⟩ <;> rw [h] <;>
      exact ⟨_, rfl, by simp [Entry.isPipelineEvent, Entry.isTransmit, Entry.isReceive, callEntry, eventEntry]⟩

/-- A load raises the transmit interrupt once (R57). -/
theorem load_transmitSide (t : Nat) (s : State) : TransmitSide 1 s (load t s) := by
  refine ⟨loadEvents t s, load_history t s, fun x hx => ?_, ?_⟩
  · rcases loadEvents_cases hx with rfl | ⟨kind, cycle, gen, rfl⟩
    · rfl
    · rfl
  · unfold loadEvents
    split <;> split <;> simp [countEvent, eventEntry]

theorem finish_transmitSide (t : Nat) (s : State) : TransmitSide 1 s (finish t s) := by
  cases hpending : s.tx.dataPending with
  | false => rw [finish_idle t s hpending]; exact .of_history_eq 1 rfl
  | true => rw [finish_loads t s hpending]; exact load_transmitSide t { s with tx := emptiedTx s }

theorem Asked.transmitSide {s r : State} (h : Asked s r) : TransmitSide 0 s r := by
  obtain ⟨new, hnew, -, hkind, -⟩ := h.history
  refine ⟨new, hnew, fun x hx => ?_, (countEvent_eq_zero fun x hx hrecord => ?_).le⟩
  · rcases hkind x hx with ⟨c, hc⟩ | ⟨b, n, hc⟩ | hc <;> simp [Entry.isReceive, hc]
  · rcases hkind x hx with ⟨c, hc⟩ | ⟨b, n, hc⟩ | hc <;> simp [hrecord] at hc

theorem complete_transmitSide (t : Nat) (s : State) : TransmitSide 1 s (complete t s) := by
  rcases complete_cases t s with h | ⟨-, -, h⟩ <;> rw [h]
  · exact finish_transmitSide t s
  · obtain ⟨r, hr, h | h⟩ := tryEmit_cases t s <;> rw [h]
    · exact hr.transmitSide.trans (.of_history_eq 1 rfl)
    · exact hr.transmitSide.trans (finish_transmitSide t r)

theorem txTick_transmitSide (t lc : Nat) (s : State) : TransmitSide 1 s (txTick t lc s) := by
  rcases txTick_cases t lc s with ⟨-, h⟩ | ⟨-, -, -, -, h⟩ | ⟨-, -, -, -, h⟩ | ⟨-, -, h⟩ <;> rw [h]
  · exact complete_transmitSide t s
  · exact complete_transmitSide t { s with tx := { s.tx with txAccum := _ } }
  · exact .of_history_eq 1 rfl
  · exact .of_history_eq 1 rfl

theorem fireTxDone_transmitSide (s : State) : TransmitSide 1 s (fireTxDone s) := by
  rw [fireTxDone_eq]
  split
  · exact complete_transmitSide _ s
  · exact .of_history_eq 1 rfl

/-! The receive side -/

/-- A delivery raises the receive interrupt once at most (R79, R105). -/
theorem deliver_receiveSide (w : Reg) (s : State) : ReceiveSide 1 s (deliver w s) := by
  refine ⟨_, deliver_history w s, ?_⟩
  rcases deliveredEvents_cases s with h | ⟨-, h⟩ | ⟨-, h⟩
  · simp [h, countEvent]
  · simp [h, countEvent, eventEntry, Entry.isTransmit]
  · simp [h, countEvent, eventEntry, Entry.isTransmit]

theorem takeWord_receiveSide (count : Nat) (s : State) : ReceiveSide 1 s (takeWord count s) := by
  rcases takeWord_cases count s with ⟨w, rest, -, -, h⟩ | ⟨r, hr, h | ⟨w, h⟩⟩ <;> rw [h]
  · exact deliver_receiveSide w { s with rx := { s.rx with receiveQueue := rest } }
  · exact hr.noPipelineEvent.receiveSide.trans (.of_history_eq 1 rfl)
  · exact hr.noPipelineEvent.receiveSide.trans (deliver_receiveSide w r)

theorem rxStep_receiveSide (count : Nat) (brk : Bool) (s : State) : ReceiveSide 1 s (rxStep count brk s) := by
  unfold rxStep
  split
  · exact .of_history_eq 1 rfl
  · split
    · unfold detectingStep
      simp only []
      split
      · exact ⟨[eventEntry s (.log .breakHold)], rfl, by simp [eventEntry, Entry.isTransmit], by
          simp [countEvent, eventEntry]⟩
      · exact .of_history_eq 1 rfl
    · split
      · have hdetect : MakesNo Entry.isPipelineEvent s (detectBreak s) := MakesNo.emit (.log .breakDetected) _ rfl
        exact hdetect.receiveSide.trans (takeWord_receiveSide count _)
      · exact takeWord_receiveSide count s

theorem tickRx_receiveSide (lc count : Nat) (brk : Bool) (s : State) : ReceiveSide 1 s (tickRx lc count brk s) := by
  by_cases hc : Crosses lc s
  · rw [tickRx_crossing lc count brk s hc]
    exact rxStep_receiveSide count brk (accumulated _ s)
  · rw [tickRx_waiting lc count brk s hc]
    exact .of_history_eq 1 rfl

theorem rxBreakTick_noPipelineEvent (s : State) : MakesNo Entry.isPipelineEvent s (rxBreakTick s) := by
  rcases rxBreakTick_cases s with ⟨-, h⟩ | ⟨-, h⟩ | ⟨-, h⟩ <;> rw [h]
  · exact .refl s
  · exact .of_history_eq rfl
  · exact ⟨_, rfl, by simp [Entry.isPipelineEvent, Entry.isTransmit, Entry.isReceive, eventEntry]⟩

theorem breakTxTick_noPipelineEvent (t : Nat) (s : State) : MakesNo Entry.isPipelineEvent s (breakTxTick t s) := by
  rcases breakTxTick_cases t s with ⟨-, h⟩ | ⟨-, h⟩ | ⟨-, -, h⟩ | ⟨-, -, -, h⟩ <;> rw [h]
  · exact .refl s
  · exact .of_history_eq rfl
  · exact ⟨_, rfl, by simp [Entry.isPipelineEvent, Entry.isTransmit, Entry.isReceive, eventEntry]⟩
  · exact ⟨_, rfl, by simp [Entry.isPipelineEvent, Entry.isTransmit, Entry.isReceive, eventEntry]⟩

theorem fireLoopback_receiveSide (s : State) : ReceiveSide 1 s (fireLoopback s) := by
  rcases fireLoopback_cases s with h | ⟨e, rest, -, h⟩ <;> rw [h]
  · exact .of_history_eq 1 rfl
  · have hnext : MakesNo Entry.isPipelineEvent (deliver e.word { s with tx := { s.tx with loopQueue := rest } })
        (scheduleNextEcho (deliver e.word { s with tx := { s.tx with loopQueue := rest } })) := by
      rcases scheduleNextEcho_eq (deliver e.word { s with tx := { s.tx with loopQueue := rest } }) with
        h' | ⟨e', others, -, h'⟩ <;> rw [h']
      · exact .refl _
      · exact .emit (.schedule .loopbackRx _ _) _ rfl
    exact (deliver_receiveSide e.word { s with tx := { s.tx with loopQueue := rest } }).trans hnext.receiveSide

/-- A tick makes its transmit events first, and then its receive events (R90, R106). -/
theorem tickBody_sides (lc : Nat) (s : State) : ∃ r, TransmitSide 1 s r ∧ ReceiveSide 1 r (tickBody lc s) := by
  rw [tickBody_eq_parts]
  exact ⟨_, (beforeTx_transmitSide s).trans (txTick_transmitSide _ lc _),
    ((tickRx_receiveSide lc _ _ _).trans (rxBreakTick_noPipelineEvent _).receiveSide).trans
      (breakTxTick_noPipelineEvent _ _).receiveSide⟩

end Sys2Proof.Machine

/-! The bounds of R106, put together. -/

namespace Sys2Proof.Machine

/-- What R106 says of the failures and error codes of a stimulus, its own exception aside (log 9). -/
structure OneFailure (new : List Entry) : Prop where
  order : new.Pairwise fun x y => x.isFailedCall = true → y.isCall = false
  once : countEvent (.log .transportFailed) new ≤ 1

/-- No call stands after one that failed, wherever the entries are cut. -/
theorem OneFailure.noCallAfter {new before after : List Entry} {call : Entry} (h : OneFailure new)
    (hsplit : new = before ++ call :: after) (hfailed : call.isFailedCall = true) : ∀ x ∈ after, x.isCall = false := by
  have horder := h.order
  rw [hsplit] at horder
  have hafter := (List.pairwise_cons.mp (List.pairwise_append.mp horder).2.1).1
  exact fun x hx => hafter x hx hfailed

theorem OrderlyEntries.oneFailure {own : Nat} {b b' : Bool} {new : List Entry} (h : OrderlyEntries own b b' new) :
    OneFailure new := ⟨h.order, h.once⟩

/-- The history has grown by entries with one Failure and one error code at most. -/
def ReportsOneCode (s t : State) : Prop :=
  ∃ new, t.history = s.history ++ new ∧ OneFailure new ∧ new.countP Entry.isErrorCode ≤ 1

theorem Orderly.reportsOneCode {s t : State} (h : Orderly 0 s t) : ReportsOneCode s t := by
  obtain ⟨new, hnew, horderly⟩ := h
  have hcodes := horderly.codes
  have honce := horderly.once
  exact ⟨new, hnew, horderly.oneFailure, by omega⟩

/-- Where the backend has not failed, an error code of the operation's own is the only one. -/
theorem Orderly.reportsOneCode_of_available {s t : State} (h : Orderly 1 s t)
    (hkept : t.session.available = s.session.available) : ReportsOneCode s t := by
  obtain ⟨new, hnew, horderly⟩ := h
  have hcodes := horderly.codes
  have hnone : countEvent (.log .transportFailed) new = 0 := by
    cases havail : s.session.available
    · exact (horderly.closed havail).2
    · exact (horderly.intact (hkept.trans havail)).2.2
  exact ⟨new, hnew, horderly.oneFailure, by omega⟩

theorem OneCodeIfWaiting.reportsOneCode {count : Nat} {s t : State} (h : OneCodeIfWaiting count s t) :
    ReportsOneCode s t := by
  rcases h with h | ⟨-, h, havail⟩
  · exact h.reportsOneCode
  · obtain ⟨new, hnew, horderly⟩ := h
    exact Orderly.reportsOneCode_of_available ⟨new, hnew, horderly⟩ (havail.trans (horderly.intact havail).1.symm)

/-- `OPEN` makes one call at most, and logs once (R100). -/
theorem openBody_reportsOneCode (s : State) : ReportsOneCode s (openBody s) := by
  have hlog : ∀ r : LogReason, r ≠ .transportFailed →
      OneFailure [eventEntry s (.log r)] ∧ [eventEntry s (.log r)].countP Entry.isErrorCode ≤ 1 := fun r hr =>
    ⟨⟨List.pairwise_singleton _ _, by simp [countEvent, eventEntry, hr]⟩, List.countP_le_length⟩
  have hcall : ∀ x : Exchange, ∀ r : LogReason, r ≠ .transportFailed →
      OneFailure [callEntry s x, eventEntry s (.log r)] ∧
        [callEntry s x, eventEntry s (.log r)].countP Entry.isErrorCode ≤ 1 := fun x r hr => by
    refine ⟨⟨by simp [eventEntry, Entry.isCall], by simp [countEvent, callEntry, eventEntry, hr]⟩, ?_⟩
    rw [List.countP_cons_of_neg (by simp [callEntry, Entry.isErrorCode])]
    exact List.countP_le_length
  unfold openBody
  simp only []
  split
  · exact ⟨_, rfl, hlog .noDevice (by decide)⟩
  · split
    · exact ⟨_, rfl, hlog .opened (by decide)⟩
    · unfold openBackend
      split
      · exact ⟨_, List.append_assoc _ _ _, hcall _ .opened (by decide)⟩
      · exact ⟨_, List.append_assoc _ _ _, hcall _ .openFailed (by decide)⟩
      · exact ⟨_, List.append_assoc _ _ _, hcall _ .openFailed (by decide)⟩

/-- Every stimulus but the tick reports one error code at most. -/
theorem exec_reportsOneCode {i : Instr} {s t : State} (h : exec i s = .next t) (htick : ∀ lc, i ≠ .tick lc) :
    ReportsOneCode s t := by
  cases i <;> cases h
  case wserper w => exact (writePeriod_orderly w s).reportsOneCode
  case wserdat w => exact (writeData_orderly w s).reportsOneCode
  case rserdatr => exact (readData_orderly s).reportsOneCode
  case rstatus dir cur => exact (readStatus_orderly dir cur s).reportsOneCode
  case wstatus dir val => exact (writeStatus_orderly dir val s).reportsOneCode
  case setbrk => exact (assertBreak_orderly s).reportsOneCode
  case clrbrk => exact (clearBreak_orderly s).reportsOneCode
  case ackrbf => exact (Orderly.record s).reportsOneCode
  case tick lc => exact absurd rfl (htick lc)
  case fireTxDone => exact (fireTxDone_orderly s).reportsOneCode
  case fireLoopbackRx => exact (fireLoopback_orderly s).reportsOneCode_of_available (by rw [fireLoopback_session])
  case openSession => exact openBody_reportsOneCode s
  case closeSession => exact (closeBody_orderly s).reportsOneCode

/-- An event that is counted among the entries of a stimulus stands there with its `now` (R27). -/
theorem eventEntry_mem_of_count {e : Event} {s : State} {new : List Entry} (hnow : ∀ x ∈ new, x.now = s.side.now)
    (hcount : 0 < countEvent e new) : eventEntry s e ∈ new := by
  obtain ⟨x, hx, hrecord⟩ := List.countP_pos_iff.mp hcount
  have hentry : x = eventEntry s e := by
    obtain ⟨now, record⟩ := x
    simp only [eventEntry, Entry.mk.injEq]
    exact ⟨hnow _ hx, of_decide_eq_true hrecord⟩
  exact hentry ▸ hx

/-- What the statement says of the error codes of a stimulus: one at most, or the two of log 9. -/
def CodesBounded (i : Instr) (s : State) (new : List Entry) : Prop :=
  new.countP Entry.isErrorCode ≤ 1 ∨
    (∃ lc, i = .tick lc) ∧ new.countP Entry.isErrorCode = 2 ∧
      eventEntry s (.log .overrun) ∈ new ∧ eventEntry s (.log .transportFailed) ∈ new

theorem tickBody_codesBounded (lc : Nat) (s : State) :
    ∃ new, (tickBody lc s).history = s.history ++ new ∧ OneFailure new ∧ CodesBounded (.tick lc) s new := by
  rcases tickBody_orderly lc s with ⟨count, h⟩ | ⟨⟨new, hnew, horderly⟩, new', hnew', hevents⟩
  · obtain ⟨new, hnew, hone, hcodes⟩ := h.reportsOneCode
    exact ⟨new, hnew, hone, Or.inl hcodes⟩
  · refine ⟨new, hnew, horderly.oneFailure, ?_⟩
    have hsame : new' = new := List.append_cancel_left (hnew'.symm.trans hnew)
    have hgrows := (tickBody_appendsOnly lc s).grows
    have hcodes := horderly.codes
    have honce := horderly.once
    by_cases hone : new.countP Entry.isErrorCode ≤ 1
    · exact Or.inl hone
    · obtain ⟨new'', hnew'', hnow⟩ := hgrows
      have hsame' : new'' = new := List.append_cancel_left (hnew''.symm.trans hnew)
      exact Or.inr ⟨⟨lc, rfl⟩, by omega, hsame ▸ hevents (.log .overrun) (by simp),
        eventEntry_mem_of_count (hsame' ▸ hnow) (by omega)⟩

/-- The failures and error codes of every stimulus. -/
theorem exec_codesBounded {i : Instr} {s t : State} (h : exec i s = .next t) :
    ∃ new, t.history = s.history ++ new ∧ OneFailure new ∧ CodesBounded i s new := by
  by_cases htick : ∃ lc, i = .tick lc
  · obtain ⟨lc, rfl⟩ := htick
    cases h
    exact tickBody_codesBounded lc s
  · obtain ⟨new, hnew, hone, hcodes⟩ := exec_reportsOneCode h fun lc hlc => htick ⟨lc, hlc⟩
    exact ⟨new, hnew, hone, Or.inl hcodes⟩

/-- Entries with no receive event hold no receive interrupt, and those with no transmit event no transmit interrupt. -/
theorem countEvent_irqRBF_of_noReceive {new : List Entry} (h : ∀ x ∈ new, x.isReceive = false) :
    countEvent .irqRBF new = 0 :=
  countEvent_eq_zero fun x hx hrecord => by simpa [Entry.isReceive, hrecord] using h x hx

theorem countEvent_irqTBE_of_noTransmit {new : List Entry} (h : ∀ x ∈ new, x.isTransmit = false) :
    countEvent .irqTBE new = 0 :=
  countEvent_eq_zero fun x hx hrecord => by simpa [Entry.isTransmit, hrecord] using h x hx

/-- The interrupts of a stimulus, as the statement bounds and orders them. -/
structure InterruptsBounded (i : Instr) (first second : List Entry) : Prop where
  tick : ∀ lc, i = .tick lc → first.all (fun x => !x.isReceive) = true ∧ second.all (fun x => !x.isTransmit) = true ∧
    countEvent .irqTBE first ≤ 1 ∧ countEvent .irqRBF second ≤ 1
  txDone : i = .fireTxDone → countEvent .irqTBE (first ++ second) ≤ 1 ∧ countEvent .irqRBF (first ++ second) = 0
  loopbackRx : i = .fireLoopbackRx →
    countEvent .irqRBF (first ++ second) ≤ 1 ∧ countEvent .irqTBE (first ++ second) = 0

/-- The entries of every stimulus, cut where its transmit side ends. -/
theorem exec_interruptsBounded {i : Instr} {s t : State} {new : List Entry} (h : exec i s = .next t)
    (hnew : t.history = s.history ++ new) :
    ∃ first second, new = first ++ second ∧ InterruptsBounded i first second := by
  have hsame : ∀ new', t.history = s.history ++ new' → new = new' := fun new' h' =>
    List.append_cancel_left (hnew.symm.trans h')
  by_cases htick : ∃ lc, i = .tick lc
  · obtain ⟨lc, rfl⟩ := htick
    cases h
    obtain ⟨r, ⟨first, hfirst, hnoReceive, htbe⟩, second, hsecond, hnoTransmit, hrbf⟩ := tickBody_sides lc s
    refine ⟨first, second, hsame _ (by rw [hsecond, hfirst, List.append_assoc]), ⟨fun _ _ => ?_, nofun, nofun⟩⟩
    exact ⟨List.all_eq_true.mpr fun x hx => by rw [hnoReceive x hx]; rfl,
      List.all_eq_true.mpr fun x hx => by rw [hnoTransmit x hx]; rfl, htbe, hrbf⟩
  · refine ⟨new, [], (List.append_nil new).symm, ⟨fun lc hlc => absurd ⟨lc, hlc⟩ htick, ?_, ?_⟩⟩
    · rintro rfl
      cases h
      obtain ⟨new', hnew', hnoReceive, htbe⟩ := fireTxDone_transmitSide s
      rw [List.append_nil, hsame new' hnew']
      exact ⟨htbe, countEvent_irqRBF_of_noReceive hnoReceive⟩
    · rintro rfl
      cases h
      obtain ⟨new', hnew', hnoTransmit, hrbf⟩ := fireLoopback_receiveSide s
      rw [List.append_nil, hsame new' hnew']
      exact ⟨hrbf, countEvent_irqTBE_of_noTransmit hnoTransmit⟩

/-- Settles O49: the failures and error codes by `exec_codesBounded`, the interrupts by `exec_interruptsBounded`. -/
theorem tickInterruptsAreBoundedAndOrdered : Obligations.TickInterruptsAreBoundedAndOrdered := by
  intro i s t h
  obtain ⟨new, hnew, hone, hcodes⟩ := exec_codesBounded h
  obtain ⟨first, second, rfl, hinterrupts⟩ := exec_interruptsBounded h hnew
  exact ⟨first, second, hnew, hcodes, hone.once, fun _ _ _ hsplit hfailed => hone.noCallAfter hsplit hfailed,
    hinterrupts.tick, hinterrupts.txDone, hinterrupts.loopbackRx⟩

end Sys2Proof.Machine

/-! The control lines by the answers of the backend (R85, R88, R89): `LineSource` and the forwarding of a change, each as
one equation for every answer, and the two status stimuli composed of them. -/

namespace Sys2Proof.Machine

theorem exec_rstatus (dir cur : Byte) (s : State) : exec (.rstatus dir cur) s = .next (readStatus dir cur s) := rfl

theorem exec_wstatus (dir val : Byte) (s : State) : exec (.wstatus dir val) s = .next (writeStatus dir val s) := rfl

/-- `linesConnected_iff` for a backend that is missing, unavailable or without a line mechanism. -/
theorem linesConnected_eq_false_iff (s : State) : linesConnected s = false ↔
    ¬ ((s.session.transport = .realDevice ∨ s.session.transport = .sharedMemoryIpc) ∧ s.session.available = true) := by
  rw [← linesConnected_iff, Bool.not_eq_true]

/-- The loopback has no line mechanism: it reads its own outputs back (R85). -/
theorem not_loopback_of_linesConnected {s : State} (h : linesConnected s = true) :
    s.session.transport ≠ .loopback := fun hloop => by
  rw [linesConnected_internal (by rw [hloop]; rfl)] at h
  exact absurd h Bool.false_ne_true

/-! `LineSource` (R85) -/

/-- The call of `getLineStatus`, answered `a` (R94). -/
def askedLines (a : Answer LineLevels) (more : List (Answer LineLevels)) (s : State) : State := { s with
  script := { s.script with getLineStatuses := more }
  draws := s.draws + 1
  history := s.history ++ [callEntry s (.getLineStatus a)] }

theorem getLineStatusAnswer_of_script {s : State} {a : Answer LineLevels} {more : List (Answer LineLevels)}
    (h : s.script.getLineStatuses = a :: more) : getLineStatusAnswer s = a := by
  simp [getLineStatusAnswer, h, drawn]

theorem calledGetLineStatus_of_script {s : State} {a : Answer LineLevels} {more : List (Answer LineLevels)}
    (h : s.script.getLineStatuses = a :: more) : calledGetLineStatus s = askedLines a more s := by
  simp only [calledGetLineStatus, getLineStatusAnswer_of_script h, h]
  rfl

theorem afterSource_unconnected {s : State} (h : linesConnected s = false) : afterSource s = s := by
  simp [afterSource, h]

theorem afterSource_value {s : State} {l : LineLevels} {more : List (Answer LineLevels)}
    (hconnected : linesConnected s = true) (h : s.script.getLineStatuses = .value l :: more) :
    afterSource s = askedLines (.value l) more s := by
  simp only [afterSource, hconnected, if_true, getLineStatusAnswer_of_script h, calledGetLineStatus_of_script h]

theorem afterSource_failure {s : State} {more : List (Answer LineLevels)}
    (hconnected : linesConnected s = true) (h : s.script.getLineStatuses = .failure :: more) :
    afterSource s = transportFailed (askedLines .failure more s) := by
  simp only [afterSource, hconnected, if_true, getLineStatusAnswer_of_script h, calledGetLineStatus_of_script h]

theorem sourceLines_unconnected {s : State} (h : linesConnected s = false) : sourceLines s =
    if s.session.transport = .loopback then { dsr := s.lines.dtrOut, cts := s.lines.rtsOut, cd := true, ri := true }
    else allAsserted := by
  simp [sourceLines, h]

theorem sourceLines_value {s : State} {l : LineLevels} {more : List (Answer LineLevels)}
    (hconnected : linesConnected s = true) (h : s.script.getLineStatuses = .value l :: more) : sourceLines s = l := by
  simp only [sourceLines, not_loopback_of_linesConnected hconnected, if_false, hconnected, if_true,
    getLineStatusAnswer_of_script h]

/-- A Failure reads as all lines asserted (R85). -/
theorem sourceLines_failure {s : State} {more : List (Answer LineLevels)}
    (hconnected : linesConnected s = true) (h : s.script.getLineStatuses = .failure :: more) :
    sourceLines s = allAsserted := by
  simp only [sourceLines, not_loopback_of_linesConnected hconnected, if_false, hconnected, if_true,
    getLineStatusAnswer_of_script h]

/-! `RSTATUS` (R88) -/

/-- `RSTATUS` by what `LineSource` answered and left. -/
theorem readStatus_of_source (dir cur : Byte) {s r : State} {l : LineLevels} (hlines : sourceLines s = l)
    (hafter : afterSource s = r) : readStatus dir cur s = { r with
      lines := { r.lines with linesIn := l }
      returned := r.returned ++ [.status (statusByte dir cur r.cfg.riOnSel l)] } := by
  subst hlines hafter
  rfl

/-- Settles O50: `LineSource` leaves the state as it is, and answers the outputs of a loopback or all asserted. -/
theorem rstatusWithoutAConnectedBackend : Obligations.RstatusWithoutAConnectedBackend := by
  intro dir cur s hbackend l
  have hconnected := (linesConnected_eq_false_iff s).mpr hbackend
  rw [exec_rstatus,
    readStatus_of_source dir cur (sourceLines_unconnected hconnected) (afterSource_unconnected hconnected)]
  rfl

/-- Settles O51: `LineSource` by the answer lined up, then the byte of the levels it gave. -/
theorem rstatusOnAConnectedBackend : Obligations.RstatusOnAConnectedBackend := by
  intro dir cur s more hkind havailable
  have hconnected := (linesConnected_iff s).mpr ⟨hkind, havailable⟩
  refine ⟨fun l hanswer => ?_, fun hanswer => ?_⟩
  · rw [exec_rstatus,
      readStatus_of_source dir cur (sourceLines_value hconnected hanswer) (afterSource_value hconnected hanswer)]
    rfl
  · rw [exec_rstatus,
      readStatus_of_source dir cur (sourceLines_failure hconnected hanswer) (afterSource_failure hconnected hanswer)]
    simp [transportFailed_eq, askedLines, eventEntry, allAsserted]

/-! The forwarding of a change (R89) -/

/-- The call of `setLineStatus`, answered `a` (R94). -/
def askedSetLines (dtr rts : Bool) (a : Answer Unit) (more : List (Answer Unit)) (s : State) : State := { s with
  script := { s.script with setLineStatuses := more }
  draws := s.draws + 1
  history := s.history ++ [callEntry s (.setLineStatus dtr rts a)] }

theorem setLineStatusAnswer_of_script {s : State} {a : Answer Unit} {more : List (Answer Unit)}
    (h : s.script.setLineStatuses = a :: more) : setLineStatusAnswer s = a := by
  simp [setLineStatusAnswer, h, drawn]

theorem calledSetLineStatus_of_script (dtr rts : Bool) {s : State} {a : Answer Unit} {more : List (Answer Unit)}
    (h : s.script.setLineStatuses = a :: more) : calledSetLineStatus dtr rts s = askedSetLines dtr rts a more s := by
  simp only [calledSetLineStatus, setLineStatusAnswer_of_script h, h]
  rfl

theorem forwardLines_unconnected (dtr rts : Bool) {s : State} (h : linesConnected s = false) :
    forwardLines dtr rts s = s := by
  simp [forwardLines, h]

theorem forwardLines_value (dtr rts : Bool) {s : State} {more : List (Answer Unit)}
    (hconnected : linesConnected s = true) (h : s.script.setLineStatuses = .value () :: more) :
    forwardLines dtr rts s = emit (.setLines dtr rts) (askedSetLines dtr rts (.value ()) more s) := by
  simp only [forwardLines, hconnected, if_true, setLineStatusAnswer_of_script h, calledSetLineStatus_of_script _ _ h]

/-- After a Failure no `SetLines` is emitted (R89, R95). -/
theorem forwardLines_failure (dtr rts : Bool) {s : State} {more : List (Answer Unit)}
    (hconnected : linesConnected s = true) (h : s.script.setLineStatuses = .failure :: more) :
    forwardLines dtr rts s = transportFailed (askedSetLines dtr rts .failure more s) := by
  simp only [forwardLines, hconnected, if_true, setLineStatusAnswer_of_script h, calledSetLineStatus_of_script _ _ h]

/-! `WSTATUS` (R89) -/

/-- The state with the output lines `dtr` and `rts`. -/
def withOutputs (dtr rts : Bool) (s : State) : State :=
  { s with lines := { s.lines with dtrOut := dtr, rtsOut := rts } }

theorem writeStatus_unchanged {dir val : Byte} {s : State} (hdtr : takeLine dir val 7 s.lines.dtrOut = s.lines.dtrOut)
    (hrts : takeLine dir val 6 s.lines.rtsOut = s.lines.rtsOut) : writeStatus dir val s = s :=
  if_pos ⟨hdtr, hrts⟩

/-- A change is kept first and then forwarded. -/
theorem writeStatus_changed {dir val : Byte} {s : State} {dtr rts : Bool}
    (hdtr : takeLine dir val 7 s.lines.dtrOut = dtr) (hrts : takeLine dir val 6 s.lines.rtsOut = rts)
    (hchanged : ¬ (dtr = s.lines.dtrOut ∧ rts = s.lines.rtsOut)) :
    writeStatus dir val s = forwardLines dtr rts (withOutputs dtr rts s) := by
  subst hdtr hrts
  exact if_neg hchanged

/-- Settles O53: no change by `writeStatus_unchanged`, and a change forwarded to nobody. -/
theorem wstatusWithoutForwarding : Obligations.WstatusWithoutForwarding := by
  intro dir val s d r
  have hdtr : takeLine dir val 7 s.lines.dtrOut = d := rfl
  have hrts : takeLine dir val 6 s.lines.rtsOut = r := rfl
  refine ⟨fun hsameDtr hsameRts => ?_, fun hchanged hbackend => ?_⟩
  · rw [exec_wstatus, writeStatus_unchanged (hdtr.trans hsameDtr) (hrts.trans hsameRts)]
  · have hconnected : linesConnected (withOutputs d r s) = false := (linesConnected_eq_false_iff s).mpr hbackend
    rw [exec_wstatus, writeStatus_changed hdtr hrts hchanged, forwardLines_unconnected _ _ hconnected]
    rfl

/-- Settles O54: the change is kept, and the backend told of it by the answer lined up. -/
theorem wstatusForwardsAChange : Obligations.WstatusForwardsAChange := by
  intro dir val s more d r hchanged hkind havailable
  have hconnected : linesConnected (withOutputs d r s) = true := (linesConnected_iff s).mpr ⟨hkind, havailable⟩
  have hforward : writeStatus dir val s = forwardLines d r (withOutputs d r s) := writeStatus_changed rfl rfl hchanged
  refine ⟨fun hanswer => ?_, fun hanswer => ?_⟩
  · rw [exec_wstatus, hforward, forwardLines_value d r hconnected hanswer]
    simp [emit, askedSetLines, withOutputs, eventEntry, callEntry]
  · rw [exec_wstatus, hforward, forwardLines_failure d r hconnected hanswer]
    simp [transportFailed_eq, askedSetLines, withOutputs, eventEntry, callEntry]

end Sys2Proof.Machine

/-! The backend in every stimulus (R94, R95): without an available external backend no operation asks the transport or
touches the session, and one that loses the backend logs the Failure. -/

namespace Sys2Proof.Machine

/-- There is no backend that the engine may ask (R94). -/
def Unbacked (s : State) : Prop := s.session.transport.external = false ∨ s.session.available = false

theorem not_unbacked_iff (s : State) :
    ¬ Unbacked s ↔ s.session.transport.external = true ∧ s.session.available = true := by
  simp [Unbacked]

/-- From `s` to `t` the transport was not asked: the session, the answers lined up and the count of calls are the
same. -/
structure LeavesTransport (s t : State) : Prop where
  session : t.session = s.session
  script : t.script = s.script
  draws : t.draws = s.draws

theorem LeavesTransport.refl (s : State) : LeavesTransport s s := ⟨rfl, rfl, rfl⟩

theorem LeavesTransport.trans {s t u : State} (h1 : LeavesTransport s t) (h2 : LeavesTransport t u) :
    LeavesTransport s u :=
  ⟨h2.session.trans h1.session, h2.script.trans h1.script, h2.draws.trans h1.draws⟩

theorem LeavesTransport.unbacked {s t : State} (h : LeavesTransport s t) (hs : Unbacked s) : Unbacked t := by
  rw [Unbacked, h.session]
  exact hs

/-- How a stimulus treats the backend: it asks only one that is there (R94), and a loss is logged (R95). -/
structure MindsBackend (s t : State) : Prop where
  appends : AppendsOnly s t
  unasked : Unbacked s → LeavesTransport s t
  logged : s.session.available = true → t.session.available = false → Emits [.log .transportFailed] s t

theorem LeavesTransport.minds {s t : State} (h : LeavesTransport s t) (happends : AppendsOnly s t) :
    MindsBackend s t := by
  refine ⟨happends, fun _ => h, fun havail hlost => ?_⟩
  rw [h.session, havail] at hlost
  cases hlost

theorem MindsBackend.refl (s : State) : MindsBackend s s := (LeavesTransport.refl s).minds (.refl s)

/-- The loss is logged where it happens, in the first part or in the second. -/
theorem MindsBackend.trans {s t u : State} (h1 : MindsBackend s t) (h2 : MindsBackend t u) : MindsBackend s u where
  appends := h1.appends.trans h2.appends
  unasked hs := (h1.unasked hs).trans (h2.unasked ((h1.unasked hs).unbacked hs))
  logged havail hlost := by
    cases hmiddle : t.session.available with
    | false => exact (h1.logged havail hmiddle).after h2.appends.grows
    | true => exact (h2.logged hmiddle hlost).before h1.appends.grows h1.appends.side

/-- The groups of the engine's record beside its session do not touch the transport. -/
theorem MindsBackend.record (s : State) {baud : Baud} {tx : Tx} {rx : Rx} {irq : Irq} {lines : Lines} :
    MindsBackend s { s with baud := baud, tx := tx, rx := rx, irq := irq, lines := lines } :=
  LeavesTransport.minds ⟨rfl, rfl, rfl⟩ (.record s)

/-- An operation on a backend that is there may ask it, and keeps it or logs its loss. -/
theorem MindsBackend.of_backed {s t : State} {new : List Entry} (hbacked : ¬ Unbacked s) (happends : AppendsOnly s t)
    (hnew : t.history = s.history ++ new) (hkept : t.session.available = s.session.available ∨
      (t.session.available = false ∧ eventEntry s (.log .transportFailed) ∈ new)) : MindsBackend s t := by
  refine ⟨happends, fun hs => absurd hs hbacked, fun havail hlost => ?_⟩
  rcases hkept with hkept | ⟨-, hlogged⟩
  · rw [hkept, havail] at hlost
    cases hlost
  · exact ⟨new, hnew, by simpa using hlogged⟩

theorem Took.minds {s t : State} (h : Took s t) (hbacked : ¬ Unbacked s) : MindsBackend s t := by
  obtain ⟨new, hnew, -, -, hkept⟩ := h.history
  exact .of_backed hbacked h.frame.appendsOnly hnew hkept

theorem Asked.minds {s t : State} (h : Asked s t) (hbacked : ¬ Unbacked s) : MindsBackend s t := by
  obtain ⟨new, hnew, -, -, hkept⟩ := h.history
  exact .of_backed hbacked h.frame.appendsOnly hnew hkept

/-! The transmit pipeline -/

theorem load_minds (t : Nat) (s : State) : MindsBackend s (load t s) :=
  LeavesTransport.minds ⟨load_session t s, load_script t s, load_draws t s⟩ (load_frame t s).appendsOnly

theorem finish_minds (t : Nat) (s : State) : MindsBackend s (finish t s) := by
  cases hpending : s.tx.dataPending with
  | false => rw [finish_idle t s hpending]; exact .record s
  | true => rw [finish_loads t s hpending]; exact (MindsBackend.record s).trans (load_minds t _)

/-- `TryEmit` is reached only with a backend (R60). -/
theorem complete_minds (t : Nat) (s : State) : MindsBackend s (complete t s) := by
  rcases complete_cases t s with h | ⟨hext, havail, h⟩ <;> rw [h]
  · exact finish_minds t s
  · have hbacked : ¬ Unbacked s := (not_unbacked_iff s).mpr ⟨hext, havail⟩
    obtain ⟨r, hasked, hend | hend⟩ := tryEmit_cases t s <;> rw [hend]
    · exact (hasked.minds hbacked).trans (.record r)
    · exact (hasked.minds hbacked).trans (finish_minds t r)

theorem txTick_minds (t lc : Nat) (s : State) : MindsBackend s (txTick t lc s) := by
  rcases txTick_cases t lc s with ⟨-, h⟩ | ⟨-, -, -, -, h⟩ | ⟨-, -, -, -, h⟩ | ⟨-, -, h⟩ <;> rw [h]
  · exact complete_minds t s
  · exact (MindsBackend.record s).trans (complete_minds t _)
  · exact .record s
  · exact .refl s

theorem breakTxTick_leavesTransport (t : Nat) (s : State) : LeavesTransport s (breakTxTick t s) := by
  rcases breakTxTick_cases t s with ⟨-, h⟩ | ⟨-, h⟩ | ⟨-, -, h⟩ | ⟨-, -, -, h⟩ <;> rw [h] <;> exact ⟨rfl, rfl, rfl⟩

/-! The receive pipeline -/

theorem deliver_leavesTransport (w : Reg) (s : State) : LeavesTransport s (deliver w s) := by
  rw [deliver_eq]
  exact ⟨rfl, rfl, rfl⟩

theorem deliver_minds (w : Reg) (s : State) : MindsBackend s (deliver w s) :=
  (deliver_leavesTransport w s).minds (deliver_frame w s).appendsOnly

theorem intakeFromTransport_minds (count : Nat) (s : State) : MindsBackend s (intakeFromTransport count s) := by
  by_cases hbacked : Unbacked s
  · rw [intakeFromTransport_closed count s hbacked]
    exact .refl s
  · obtain ⟨r, htook, h | ⟨w, h⟩⟩ := intakeFromTransport_cases count s <;> rw [h]
    · exact htook.minds hbacked
    · exact (htook.minds hbacked).trans (deliver_minds w r)

theorem takeWord_minds (count : Nat) (s : State) : MindsBackend s (takeWord count s) := by
  unfold takeWord
  split
  · exact intakeFromTransport_minds count s
  · split
    · exact intakeFromTransport_minds count s
    · exact (MindsBackend.record s).trans (deliver_minds _ _)

theorem detectingStep_leavesTransport (s : State) : LeavesTransport s (detectingStep s) := by
  unfold detectingStep
  simp only []
  split
  · exact ⟨rfl, rfl, rfl⟩
  · exact ⟨rfl, rfl, rfl⟩

theorem detectBreak_minds (s : State) : MindsBackend s (detectBreak s) :=
  LeavesTransport.minds ⟨rfl, rfl, rfl⟩ (detectBreak_frame s).appendsOnly

theorem rxStep_minds (count : Nat) (brk : Bool) (s : State) : MindsBackend s (rxStep count brk s) := by
  unfold rxStep
  split
  · exact .refl s
  · split
    · exact (detectingStep_leavesTransport s).minds (detectingStep_frame s).appendsOnly
    · split
      · exact (detectBreak_minds s).trans (takeWord_minds count _)
      · exact takeWord_minds count s

theorem tickRx_minds (lc count : Nat) (brk : Bool) (s : State) : MindsBackend s (tickRx lc count brk s) := by
  by_cases hc : Crosses lc s
  · rw [tickRx_crossing lc count brk s hc]
    exact (MindsBackend.record s).trans (rxStep_minds count brk _)
  · rw [tickRx_waiting lc count brk s hc]
    exact .record s

theorem rxBreakTick_leavesTransport (s : State) : LeavesTransport s (rxBreakTick s) := by
  rcases rxBreakTick_cases s with ⟨-, h⟩ | ⟨-, h⟩ | ⟨-, h⟩ <;> rw [h] <;> exact ⟨rfl, rfl, rfl⟩

/-! The tick -/

theorem polled_minds (s : State) : MindsBackend s (polled s) := by
  by_cases hbacked : Unbacked s
  · rw [polled_closed s hbacked]
    exact .refl s
  · exact (polled_took s).minds hbacked

theorem forceOverrun_minds {s : State} (hbacked : ¬ Unbacked s) : MindsBackend s (forceOverrun s) := by
  have happends := (forceOverrun_frame s).appendsOnly
  rcases forceOverrun_cases s with ⟨-, h⟩ | ⟨-, h⟩ <;> rw [h] at happends ⊢
  · exact .of_backed hbacked happends rfl (Or.inr ⟨rfl, by simp⟩)
  · exact .of_backed hbacked happends rfl (Or.inl rfl)

/-- What counts toward an overrun was waiting on a backend, which its poll has not lost (R80, R96). -/
theorem beforeTx_minds (s : State) : MindsBackend s (beforeTx s) := by
  have hcounted : ∀ n, MindsBackend s (setUnread n (polled s)) := fun _ => (polled_minds s).trans (.record _)
  unfold beforeTx
  rcases rxOverrunTick_cases (pollResult s).1 (polled s) with ⟨-, -, h⟩ | ⟨-, -, -, h⟩ | ⟨hcounts, -, -, h⟩ <;> rw [h]
  · exact hcounted _
  · exact hcounted _
  · have hcount := ((overrunCounts_iff _ _).mp hcounts).2
    refine (hcounted _).trans (forceOverrun_minds ((not_unbacked_iff _).mpr ⟨?_, polled_available hcount⟩))
    rw [setUnread_session, (polled_took s).transport]
    exact (pollResult_pos hcount).1

theorem tickBody_minds (lc : Nat) (s : State) : MindsBackend s (tickBody lc s) := by
  rw [tickBody_eq_parts]
  exact (beforeTx_minds s)
    |>.trans (txTick_minds _ lc _)
    |>.trans (tickRx_minds lc _ _ _)
    |>.trans ((rxBreakTick_leavesTransport _).minds (rxBreakTick_frame _).appendsOnly)
    |>.trans ((breakTxTick_leavesTransport _ _).minds (breakTxTick_frame _ _).appendsOnly)

/-! The control lines -/

theorem not_unbacked_of_linesConnected {s : State} (h : linesConnected s = true) : ¬ Unbacked s := by
  rintro (hext | hlost)
  · rw [linesConnected_internal hext] at h
    cases h
  · rw [((linesConnected_iff s).mp h).2] at hlost
    cases hlost

theorem readStatus_minds (dir cur : Byte) (s : State) : MindsBackend s (readStatus dir cur s) := by
  have hsource : MindsBackend s (afterSource s) := by
    cases hconnected : linesConnected s with
    | false => rw [afterSource_unconnected hconnected]; exact .refl s
    | true => exact (afterSource_took s).minds (not_unbacked_of_linesConnected hconnected)
  exact hsource.trans (LeavesTransport.minds ⟨rfl, rfl, rfl⟩ ((AppendsOnly.record _).trans (.giveBack _ _)))

theorem forwardLines_minds (dtr rts : Bool) (s : State) : MindsBackend s (forwardLines dtr rts s) := by
  cases hconnected : linesConnected s with
  | false => rw [forwardLines_unconnected dtr rts hconnected]; exact .refl s
  | true =>
    have hbacked := not_unbacked_of_linesConnected hconnected
    have happends := forwardLines_appendsOnly dtr rts s
    rw [forwardLines, if_pos hconnected] at happends ⊢
    split at happends
    · exact .of_backed hbacked happends (List.append_assoc _ _ _) (Or.inr ⟨rfl, by simp [eventEntry]⟩)
    · exact .of_backed hbacked happends (List.append_assoc _ _ _) (Or.inl rfl)

theorem writeStatus_minds (dir val : Byte) (s : State) : MindsBackend s (writeStatus dir val s) := by
  unfold writeStatus
  simp only []
  split
  · exact .refl s
  · exact (MindsBackend.record s).trans (forwardLines_minds _ _ _)

/-! The stimuli that have no business with the transport -/

theorem rescale_leavesTransport (t newBT : Nat) (s : State) : LeavesTransport s (rescale t newBT s) := by
  have hremainder : LeavesTransport s (rescaleRemainder t newBT s) := by
    unfold rescaleRemainder
    split
    · split
      · exact ⟨rfl, rfl, rfl⟩
      · exact ⟨rfl, rfl, rfl⟩
    · exact ⟨rfl, rfl, rfl⟩
  unfold rescale
  split
  · exact .refl s
  · exact hremainder.trans ⟨rfl, rfl, rfl⟩

theorem writePeriod_leavesTransport (w : Reg) (s : State) : LeavesTransport s (writePeriod w s) := by
  have hset : LeavesTransport s (setPeriod w s) := ⟨rfl, rfl, rfl⟩
  rcases writePeriod_cases w s with h | h | ⟨-, h⟩ <;> rw [h]
  · exact .refl s
  · exact hset
  · exact hset.trans (rescale_leavesTransport _ _ _)

theorem writeData_minds (w : Reg) (s : State) : MindsBackend s (writeData w s) := by
  have hleaves : LeavesTransport s (held w s) := by
    unfold held
    simp only []
    split
    · exact ⟨rfl, rfl, rfl⟩
    · exact ⟨rfl, rfl, rfl⟩
  have hheld : MindsBackend s (held w s) := hleaves.minds (held_appendsOnly w s)
  rw [writeData_eq]
  split
  · exact hheld.trans (load_minds _ _)
  · exact hheld

theorem fireTxDone_minds (s : State) : MindsBackend s (fireTxDone s) := by
  rw [fireTxDone_eq]
  split
  · exact complete_minds _ s
  · exact .refl s

theorem assertBreak_leavesTransport (s : State) : LeavesTransport s (assertBreak s) := by
  rcases assertBreak_cases s with h | ⟨-, h⟩ | ⟨-, rem, h⟩ <;> rw [h] <;> exact ⟨rfl, rfl, rfl⟩

theorem readData_leavesTransport (s : State) : LeavesTransport s (readData s) := by
  rw [readData, clearRead_eq]
  exact ⟨rfl, rfl, rfl⟩

theorem fireLoopback_leavesTransport (s : State) : LeavesTransport s (fireLoopback s) := by
  rcases fireLoopback_delivers s with h | ⟨e, rest, history, -, h⟩ <;> rw [h]
  · exact .refl s
  · have hpopped : LeavesTransport s { s with tx := { s.tx with loopQueue := rest } } := ⟨rfl, rfl, rfl⟩
    exact (hpopped.trans (deliver_leavesTransport e.word _)).trans ⟨rfl, rfl, rfl⟩

/-- Every stimulus but `OPEN` and `CLOSE`. -/
theorem exec_minds {i : Instr} {s t : State} (h : exec i s = .next t) (hopen : i ≠ .openSession)
    (hclose : i ≠ .closeSession) : MindsBackend s t := by
  have happends := exec_appendsOnly h
  cases i <;> cases h
  case wserper w => exact (writePeriod_leavesTransport w s).minds happends
  case wserdat w => exact writeData_minds w s
  case rserdatr => exact (readData_leavesTransport s).minds happends
  case rstatus dir cur => exact readStatus_minds dir cur s
  case wstatus dir val => exact writeStatus_minds dir val s
  case setbrk => exact (assertBreak_leavesTransport s).minds happends
  case clrbrk => exact LeavesTransport.minds ⟨rfl, rfl, rfl⟩ happends
  case ackrbf => exact .record s
  case tick lc => exact tickBody_minds lc s
  case fireTxDone => exact fireTxDone_minds s
  case fireLoopbackRx => exact (fireLoopback_leavesTransport s).minds happends
  case openSession => exact absurd rfl hopen
  case closeSession => exact absurd rfl hclose

/-- `CLOSE` drops the transport without a call (R101). -/
theorem closeBody_dropsTransport (s : State) : (closeBody s).session.available = false ∧
    (closeBody s).draws = s.draws ∧ (closeBody s).script = s.script := ⟨rfl, rfl, rfl⟩

/-- Settles O14: an unavailable backend is not touched, and a loss is logged; `CLOSE` leaves nothing available. -/
theorem onlyOpenMakesTheBackendAvailable : Obligations.OnlyOpenMakesTheBackendAvailable := by
  intro i s t h hopen
  by_cases hclose : i = .closeSession
  · subst hclose
    cases h
    exact ⟨fun _ => (closeBody_dropsTransport s).1, fun hne => absurd rfl hne⟩
  · have hminds := exec_minds h hopen hclose
    refine ⟨fun hgone => ?_, fun _ havail hlost => ?_⟩
    · rw [(hminds.unasked (Or.inr hgone)).session, hgone]
    · obtain ⟨new, hnew, hlogged⟩ := hminds.logged havail hlost
      exact ⟨new, hnew, hlogged _ (List.mem_singleton_self _)⟩

/-- Settles O15: without a backend every stimulus leaves the transport alone, and `CLOSE` always does. -/
theorem oracleIsCalledOnlyOnAnAvailableBackend : Obligations.OracleIsCalledOnlyOnAnAvailableBackend := by
  intro i s t h hopen hunbacked
  by_cases hclose : i = .closeSession
  · subst hclose
    cases h
    exact (closeBody_dropsTransport s).2
  · have hleaves := (exec_minds h hopen hclose).unasked hunbacked
    exact ⟨hleaves.draws, hleaves.script⟩

end Sys2Proof.Machine

/-! The session's start and end in full (R98, R100, R101): the choice of the transport by its name, and `OPEN` and
`CLOSE`, each as one equation for every kind of transport and every answer. -/

namespace Sys2Proof.Machine

theorem exec_openSession (s : State) : exec .openSession s = .next (openBody s) := rfl

theorem exec_closeSession (s : State) : exec .closeSession s = .next (closeBody s) := rfl

/-! `Select` (R98) -/

theorem select_shm {p : Params} {name : Name} (h : name = p.shmToken) : select p name = .sharedMemoryIpc := if_pos h

theorem select_loop {p : Params} {name : Name} (hshm : name ≠ p.shmToken) (h : name = p.loopToken) :
    select p name = .loopback := by
  rw [select, if_neg hshm, if_pos h]

theorem select_noneToken {p : Params} {name : Name} (hshm : name ≠ p.shmToken) (hloop : name ≠ p.loopToken)
    (h : name ∈ p.noneTokens) : select p name = .none := by
  rw [select, if_neg hshm, if_neg hloop, if_pos (List.contains_iff_mem.mpr h)]

/-- A name that is no whole token is decided by the prefixes. -/
theorem select_of_prefixes {p : Params} {name : Name} (hshm : name ≠ p.shmToken) (hloop : name ≠ p.loopToken)
    (hnone : name ∉ p.noneTokens) :
    select p name = if p.relayPrefix <+: name then .networkRelay
      else if p.tcpPrefix <+: name then .tcpSocket
      else if p.midiPrefix <+: name then .midi
      else .realDevice := by
  rw [select, if_neg hshm, if_neg hloop, if_neg (List.contains_iff_mem.not.mpr hnone)]
  simp only [List.isPrefixOf_iff_prefix]

/-- Settles O57: the whole tokens one by one, then the prefixes in their order. -/
theorem selectFollowsTheOrderOfTheRule : Obligations.SelectFollowsTheOrderOfTheRule := by
  refine fun p name => ⟨select_shm, select_loop, select_noneToken, fun hshm hloop hnone => ?_⟩
  rw [select_of_prefixes hshm hloop hnone]
  refine ⟨fun hrelay => if_pos hrelay, fun hrelay htcp => ?_, fun hrelay htcp hmidi => ?_, fun hrelay htcp hmidi => ?_⟩
  · rw [if_neg hrelay, if_pos htcp]
  · rw [if_neg hrelay, if_neg htcp, if_pos hmidi]
  · rw [if_neg hrelay, if_neg htcp, if_neg hmidi]

/-! `OPEN` (R100) -/

theorem openBody_none {s : State} (h : select s.par s.side.name = .none) :
    openBody s = giveBack .openOk (logReason .noDevice (attach .none false (freshSession s))) := if_pos h

theorem openBody_loopback {s : State} (h : select s.par s.side.name = .loopback) :
    openBody s = giveBack .openOk (logReason .opened (attach .loopback true (freshSession s))) := by
  simp [openBody, h]

theorem openBody_external {s : State} (h : (select s.par s.side.name).external = true) :
    openBody s = openBackend (select s.par s.side.name) (freshSession s) := by
  have hnone : select s.par s.side.name ≠ .none := fun hk => by simp [hk, Transport.external] at h
  have hloop : select s.par s.side.name ≠ .loopback := fun hk => by simp [hk, Transport.external] at h
  simp [openBody, hnone, hloop]

/-- Settles O55: a fresh session with nothing attached, or with the loopback. -/
theorem openWithoutABackendCall : Obligations.OpenWithoutABackendCall := by
  refine fun s => ⟨fun hnone => ?_, fun hloop => ?_⟩
  · rw [exec_openSession, openBody_none hnone]
    rfl
  · rw [exec_openSession, openBody_loopback hloop]
    rfl

/-- The call of `T.open(kind)`, answered `a` (R94). -/
def askedOpen (kind : Transport) (a : OpenAnswer) (more : List OpenAnswer) (s : State) : State := { s with
  script := { s.script with opens := more }
  draws := s.draws + 1
  history := s.history ++ [callEntry s (.opened kind a)] }

theorem openAnswer_of_script {s : State} {a : OpenAnswer} {more : List OpenAnswer} (h : s.script.opens = a :: more) :
    openAnswer s = a := by
  simp [openAnswer, h, drawn]

theorem calledOpen_of_script (kind : Transport) {s : State} {a : OpenAnswer} {more : List OpenAnswer}
    (h : s.script.opens = a :: more) : calledOpen kind s = askedOpen kind a more s := by
  simp only [calledOpen, openAnswer_of_script h, h]
  rfl

theorem openBackend_ok (kind : Transport) {s : State} {more : List OpenAnswer} (h : s.script.opens = .ok :: more) :
    openBackend kind s = giveBack .openOk (logReason .opened (attach kind true (askedOpen kind .ok more s))) := by
  simp only [openBackend, openAnswer_of_script h, calledOpen_of_script kind h]

/-- A Failure of the call counts as `failed` (log 8). -/
theorem openBackend_refused (kind : Transport) {s : State} {a : OpenAnswer} {more : List OpenAnswer}
    (h : s.script.opens = a :: more) (hrefused : a ≠ .ok) : openBackend kind s =
      giveBack .openFailed (logReason .openFailed (attach .none false (askedOpen kind a more s))) := by
  cases a with
  | ok => exact absurd rfl hrefused
  | failed => simp only [openBackend, openAnswer_of_script h, calledOpen_of_script kind h]
  | failure => simp only [openBackend, openAnswer_of_script h, calledOpen_of_script kind h]

/-- Settles O56: the fresh session asks the backend to open, and attaches it or falls back to no device. -/
theorem openOfABackend : Obligations.OpenOfABackend := by
  intro s a more hexternal hanswer
  have hopens : (freshSession s).script.opens = a :: more := hanswer
  rw [exec_openSession, openBody_external hexternal]
  by_cases hok : a = .ok
  · subst hok
    rw [openBackend_ok _ hopens]
    simp [giveBack, logReason, emit, attach, askedOpen, freshSession, resetSession, callEntry, eventEntry]
  · rw [openBackend_refused _ hopens hok]
    simp [hok, giveBack, logReason, emit, attach, askedOpen, freshSession, resetSession, callEntry, eventEntry]

/-! `CLOSE` (R101) -/

/-- Settles O58: the word is the encoding of `CLOSE`, whose body is the reset and its log. -/
theorem closeResetsEveryField : Obligations.CloseResetsEveryField := by
  refine fun s => ⟨decode_eq_ok_iff.mpr ⟨rfl, by decide⟩, ?_⟩
  rw [exec_closeSession]
  rfl

end Sys2Proof.Machine

/-! Exceptions: there is none (R102, R109) -/

namespace Sys2Proof.Machine

/-- The type of faults has no constructor, so no run can end in one (R102). -/
theorem safe_of_no_fault (s : State) : Safe s := by
  intro k (r : Fault) hrun
  cases r

/-- Settles O7: `exec_next` for each instruction; no run faults because there is no fault to raise. -/
theorem everyStimulusCompletesInEveryState : Obligations.EveryStimulusCompletesInEveryState :=
  ⟨exec_next, safe_of_no_fault⟩

end Sys2Proof.Machine

/-! The stimulus a step takes: the next of the host's stream, and a placed word before it (R30, R32, R37; logs 4, 5). -/

namespace Sys2Proof.Machine

/-- An instruction is read from an opcode-table word exactly when its stimulus word is accepted. -/
theorem decodeTableWord_eq_some_iff {nbits w : Nat} {i : Instr} :
    decodeTableWord nbits w = some i ↔ decode (tableWord nbits w) = .ok i := by
  unfold decodeTableWord
  cases decode (tableWord nbits w) <;> simp

/-- Taking back what was placed with the state's own side band leaves only the count of the stimulus taken. -/
theorem takeStimulus_placeStimulus_side (w : Word) (s : State) :
    takeStimulus { word := w, side := s.side } s.pending (placeStimulus { word := w, side := s.side } s) =
      { s with stimIndex := s.stimIndex + 1 } := rfl

/-- Settles O4: the state the instruction runs from is the one `takeStimulus` leaves. -/
theorem stepRunsTheDecodedStimulus : Obligations.StepRunsTheDecodedStimulus :=
  fun _ _ _ _ hpending hdecode => step_of_decode_ok hpending hdecode

/-- Settles O5: the placed stimulus is the next of the stream, and taking it leaves the stream and the side band of the
state it was placed in. -/
theorem placedWordIsRunNext : Obligations.PlacedWordIsRunNext := by
  intro s nbits w i htable
  have hdecode : decode (tableWord nbits w) = .ok i := decodeTableWord_eq_some_iff.mp htable
  have hpending : (s.withFetchWord nbits w).pending = { word := tableWord nbits w, side := s.side } :: s.pending :=
    placeStimulus_pending _ s
  calc step (s.withFetchWord nbits w)
      = exec i (takeStimulus { word := tableWord nbits w, side := s.side } s.pending (s.withFetchWord nbits w)) :=
        step_of_decode_ok hpending hdecode
    _ = exec i { s with stimIndex := s.stimIndex + 1 } :=
        congrArg (exec i) (takeStimulus_placeStimulus_side (tableWord nbits w) s)

end Sys2Proof.Machine
